-- ==== Sys2Proof/Word.lean ====
section
/-! DEFINITION. The word types of the RPW block: bit vectors of the widths the spec gives. -/

namespace Sys2Proof

/-- An 8-bit byte: one slot of a ring, an `idx` field, an operand `b` (R21, R90, R97). -/
abbrev Byte := BitVec 8

/-- A 32-bit word: `arg`, a response value, a backup register, a CSR, `TICK` (R25, R26, R40, R90). -/
abbrev Word := BitVec 32

/-- A 64-bit quantity: `RTCNT`, `ALR_TGT`, `WUT_NEXT` (R27, R28, R29). -/
abbrev Dword := BitVec 64

/-- A command word `cmd[47:0]` (R90). -/
abbrev Cmd := BitVec 48

/-- A clock id (R44): only equality of ids is used by any rule. -/
abbrev ClkId := BitVec 8

end Sys2Proof
end

