-- ==== Sys2Proof/Config.lean ====
section
/-! DEFINITION. What an implementation fixes (the parameters of R7, the clock ids of R44) and the free values:
the values the spec leaves "unspecified" after a reset event, as constants with no body. -/

namespace Sys2Proof

/-- The parameters of R7, fixed for a run. `RTC_SRC_PRESENT`, a function from {1, 2} to Bool, is held as its two
values. State carries one `Params` (field `cfg`), no step writes it, and a statement holds for every value of it. -/
structure Params where
  /-- `CAP`: ring capacity in bytes. -/
  cap : Nat
  /-- `N_RB`: number of ring buffers. -/
  nRb : Nat
  /-- `N_CLK`: number of selectable clock configurations. -/
  nClk : Nat
  /-- `RTC_SRC_PRESENT(1)`: the internal low-speed oscillator oscillates. -/
  rtcSrc1Present : Bool
  /-- `RTC_SRC_PRESENT(2)`: the external crystal oscillates. -/
  rtcSrc2Present : Bool
  /-- `TIMED_WAIT_EXT_WAKE`: a pending external interrupt may end a timed wait. -/
  timedWaitExtWake : Bool
  deriving DecidableEq, Repr

/-- The constraints of R7. The upper bound on `CAP` is DEDUCED from `zext_32(HEAD[inst])` (R40), which needs cursors
of at most 32 bits (log entry 3; safe: a claim covers fewer machines). -/
abbrev Params.Legal (p : Params) : Prop :=
  (2 ≤ p.cap ∧ p.cap ≤ 2 ^ 32) ∧ (1 ≤ p.nRb ∧ p.nRb ≤ 256) ∧ (1 ≤ p.nClk ∧ p.nClk ≤ 253)

/-- The parameters of `State.reset`: R7's defaults where it gives one (`CAP`, `N_RB`, `TIMED_WAIT_EXT_WAKE`).
DESIGN CHOICE (log entry 2, unsafe): `N_CLK = 3` and both RTC sources present, which R7 leaves open. -/
def Params.default : Params where
  cap := 64
  nRb := 1
  nClk := 3
  rtcSrc1Present := true
  rtcSrc2Present := true
  timedWaitExtWake := false

/-- `CLK_NONE` (R44): nothing recorded. -/
def clkNone : ClkId := 0xFD#8

/-- `CLK_LP` (R44): the fixed low-frequency oscillator configuration. -/
def clkLp : ClkId := 0xFE#8

/-- `CLK_RESETDEF` (R44): the clock tree after "resets the clock tree". -/
def clkResetDef : ClkId := 0xFF#8

/-! The free values (log entry 5). R311, R312 and U14, U15 leave these fields "unspecified" after a reset event:
any value of the type. Each is an opaque function of the number of draws made so far (`State.draws`). -/

/-- `PREFETCH` after a reset event. -/
opaque Config.freePrefetch : Nat → Bool
/-- `VREFEN` after a reset event. -/
opaque Config.freeVrefen : Nat → Bool
/-- `TSEN` after a reset event. -/
opaque Config.freeTsen : Nat → Bool
/-- `PVDEN` after a reset event. -/
opaque Config.freePvden : Nat → Bool
/-- `RTCNT` after a PowerOnReset event. -/
opaque Config.freeRtcnt : Nat → Dword
/-- `ALR_TGT` after a reset event. -/
opaque Config.freeAlrTgt : Nat → Dword
/-- `WUT_PERIOD` after a reset event. -/
opaque Config.freeWutPeriod : Nat → Word
/-- `WUT_NEXT` after a reset event. -/
opaque Config.freeWutNext : Nat → Dword
/-- `BKP[k]` after a PowerOnReset event: draw, then index. -/
opaque Config.freeBkp : Nat → Nat → Word
/-- `WUF` after a StandbyExitReset. -/
opaque Config.freeWuf : Nat → Bool
/-- `ALR_EN` after a StandbyExitReset with `RTC_SRC ≠ 0`. -/
opaque Config.freeAlrEn : Nat → Bool
/-- `ALR_IE` after a StandbyExitReset with `RTC_SRC ≠ 0`. -/
opaque Config.freeAlrIe : Nat → Bool
/-- `ALR_F` after a StandbyExitReset with `RTC_SRC ≠ 0`. -/
opaque Config.freeAlrF : Nat → Bool
/-- `WUT_EN` after a StandbyExitReset with `RTC_SRC ≠ 0`. -/
opaque Config.freeWutEn : Nat → Bool
/-- `WUT_IE` after a StandbyExitReset with `RTC_SRC ≠ 0`. -/
opaque Config.freeWutIe : Nat → Bool
/-- `WUT_F` after a StandbyExitReset with `RTC_SRC ≠ 0`. -/
opaque Config.freeWutF : Nat → Bool

end Sys2Proof
end

