-- ==== Sys2Proof/Syntax.lean ====
section
/-! DEFINITION. The commands of the block: one constructor per row of spec/opcode_table.json (R98). Operands are the
contiguous fields of R97; the port of a command is not an operand (R99). -/

namespace Sys2Proof

/-- The two command ports (R3): P, the producer (interrupt context), and C, the consumer (main-line context). -/
inductive Port where
  | P
  | C
  deriving DecidableEq, Repr

/-- The unit operand `u` of R96: 0 seconds (alarm comparator), 1 milliseconds (periodic wake-up timer). -/
inductive TimeUnit where
  | seconds
  | milliseconds
  deriving DecidableEq, Repr

/-- The 23 commands of R98. -/
inductive Instr where
  /-- `CSR_READ n, b` (R260). -/
  | csrRead (n : Byte) (b : Byte)
  /-- `MILLIS` (R120). -/
  | millis
  /-- `RB_INSERT i, b` (R131), the only command of port P. -/
  | rbInsert (i : Byte) (b : Byte)
  /-- `RB_AVAIL i` (R132). -/
  | rbAvail (i : Byte)
  /-- `RB_READ i` (R133). -/
  | rbRead (i : Byte)
  /-- `RB_PEEK i` (R134). -/
  | rbPeek (i : Byte)
  /-- `RB_RDUNTIL i, t` (R135). -/
  | rbRdUntil (i : Byte) (t : Byte)
  /-- `RB_INIT i` (R136). -/
  | rbInit (i : Byte)
  /-- `PM_SLEEP u, d` (R162). -/
  | pmSleep (u : TimeUnit) (d : Word)
  /-- `PM_LPSLEEP u, d` (R163). -/
  | pmLpSleep (u : TimeUnit) (d : Word)
  /-- `PM_STOP u, d` (R164). -/
  | pmStop (u : TimeUnit) (d : Word)
  /-- `PM_LPSTOP u, d` (R165). -/
  | pmLpStop (u : TimeUnit) (d : Word)
  /-- `PM_STOP_IRQ` (R169). -/
  | pmStopIrq
  /-- `PM_STANDBY` (R171). -/
  | pmStandby
  /-- `PM_STANDBY_SEC d` (R172). -/
  | pmStandbySec (d : Word)
  /-- `PM_STANDBY_PIN p` (R173). -/
  | pmStandbyPin (p : Byte)
  /-- `RTC_INIT s` (R210). -/
  | rtcInit (src : Byte)
  /-- `RTC_ARM_SEC d` (R211). -/
  | rtcArmSec (d : Word)
  /-- `RTC_ARM_MS d` (R212). -/
  | rtcArmMs (d : Word)
  /-- `BKP_READ k` (R216). -/
  | bkpRead (k : Byte)
  /-- `BKP_WRITE k, w` (R217). -/
  | bkpWrite (k : Byte) (w : Word)
  /-- `CLK_SELECT c` (R240). -/
  | clkSelect (c : Byte)
  /-- `CLK_CURRENT` (R241). -/
  | clkCurrent
  deriving DecidableEq, Repr

/-- The only port on which the command is legal (R98, R99). -/
def Instr.port : Instr → Port
  | .rbInsert _ _ => .P
  | .csrRead _ _ => .C
  | .millis => .C
  | .rbAvail _ => .C
  | .rbRead _ => .C
  | .rbPeek _ => .C
  | .rbRdUntil _ _ => .C
  | .rbInit _ => .C
  | .pmSleep _ _ => .C
  | .pmLpSleep _ _ => .C
  | .pmStop _ _ => .C
  | .pmLpStop _ _ => .C
  | .pmStopIrq => .C
  | .pmStandby => .C
  | .pmStandbySec _ => .C
  | .pmStandbyPin _ => .C
  | .rtcInit _ => .C
  | .rtcArmSec _ => .C
  | .rtcArmMs _ => .C
  | .bkpRead _ => .C
  | .bkpWrite _ _ => .C
  | .clkSelect _ => .C
  | .clkCurrent => .C

end Sys2Proof
end

