-- ==== Sys2Proof/WellFormed.lean ====
section
/-! DEFINITION. When a command's operands are in range (R64, R100 (c)). A word that selects a row of R98 but whose
operands are out of range is a reserved encoding: it is answered ILLEGAL. The check the machine makes stands in
Machine/Operands.lean, one per kind of operand; Laws/Operands.lean proves that the two agree. -/

namespace Sys2Proof

/-- The CSR numbers of R40 that take no instance. -/
def plainCsrs : List Byte :=
  [0x00#8, 0x01#8, 0x02#8, 0x03#8, 0x04#8, 0x05#8, 0x06#8, 0x07#8, 0x08#8, 0x09#8, 0x0A#8, 0x0B#8]

/-- The CSR numbers of R40 that take a ring instance in `arg[7:0]` (R50). -/
def ringCsrs : List Byte := [0x10#8, 0x11#8]

/-- The operands are in the ranges of R100 (c). -/
def Instr.wellFormed (p : Params) (ins : Instr) : Bool :=
  match ins with
  | .csrRead n b => decide ((n ∈ plainCsrs ∧ b = 0#8) ∨ (n ∈ ringCsrs ∧ b.toNat < p.nRb))
  | .millis => true
  | .rbInsert i _ => decide (i.toNat < p.nRb)
  | .rbAvail i => decide (i.toNat < p.nRb)
  | .rbRead i => decide (i.toNat < p.nRb)
  | .rbPeek i => decide (i.toNat < p.nRb)
  | .rbRdUntil i _ => decide (i.toNat < p.nRb)
  | .rbInit i => decide (i.toNat < p.nRb)
  | .pmSleep _ _ => true
  | .pmLpSleep _ _ => true
  | .pmStop _ _ => true
  | .pmLpStop _ _ => true
  | .pmStopIrq => true
  | .pmStandby => true
  | .pmStandbySec _ => true
  | .pmStandbyPin pin => decide (pin.toNat < 3)
  | .rtcInit src => decide (src = 1#8 ∨ src = 2#8)
  | .rtcArmSec _ => true
  | .rtcArmMs _ => true
  | .bkpRead k => decide (k.toNat < 5)
  | .bkpWrite k _ => decide (k.toNat < 5)
  | .clkSelect c => decide (c.toNat < p.nClk)
  | .clkCurrent => true

end Sys2Proof
end

