-- ==== Sys2Proof/Decode.lean ====
section
/-! DEFINITION. Command words to commands and back (30_encoding.md). Decoding makes checks (1) and (3) of R101 (the
opcode is known, the format's zero bits are zero) and takes the operand fields; the port (2) and the operand ranges (4)
are checked where the command is presented and executed. -/

namespace Sys2Proof

/-! ### Fields of a command word (R90) -/

/-- `op = cmd[47:40]`. -/
def opField (w : Cmd) : Byte := w.extractLsb' 40 8

/-- `idx = cmd[39:32]`. -/
def idxField (w : Cmd) : Byte := w.extractLsb' 32 8

/-- `arg = cmd[31:0]`. -/
def argField (w : Cmd) : Word := w.extractLsb' 0 32

/-- A command word from its three fields. -/
def cmdOf (op idx : Byte) (arg : Word) : Cmd := op ++ idx ++ arg

/-- Why a word decodes to no command, by name. -/
inductive DecodeError where
  /-- R100 (a): `op` is in no row of R98. -/
  | unknownOp (op : Byte)
  /-- R100 (b): a bit that the format of `op`'s row requires to be 0 is 1. -/
  | zeroBitsSet (op : Byte)
  deriving DecidableEq, Repr

/-! ### Formats (R91 to R96) -/

/-- The unit operand `u = idx[0]` (R96). -/
def unitOfBit (u : Bool) : TimeUnit := if u then .milliseconds else .seconds

/-- The bit of a unit operand (R96). -/
def bitOfUnit : TimeUnit → BitVec 1
  | .seconds => 0#1
  | .milliseconds => 1#1

/-- A format's answer: the command when its zero bits are zero, else R100 (b). -/
def whenZero (w : Cmd) (zero : Bool) (ins : Instr) : Except DecodeError Instr :=
  if zero then .ok ins else .error (.zeroBitsSet (opField w))

/-- Format Z (R91): no operand. -/
def formatZ (w : Cmd) (ins : Instr) : Except DecodeError Instr :=
  whenZero w (idxField w == 0#8 && argField w == 0#32) ins

/-- Format I (R92): `idx` is the operand. -/
def formatI (w : Cmd) (mk : Byte → Instr) : Except DecodeError Instr :=
  whenZero w (argField w == 0#32) (mk (idxField w))

/-- Format B (R93): `idx` and the byte `arg[7:0]`. -/
def formatB (w : Cmd) (mk : Byte → Byte → Instr) : Except DecodeError Instr :=
  whenZero w ((argField w).extractLsb' 8 24 == 0#24) (mk (idxField w) ((argField w).extractLsb' 0 8))

/-- Format A (R94): the 32-bit `arg`. -/
def formatA (w : Cmd) (mk : Word → Instr) : Except DecodeError Instr :=
  whenZero w (idxField w == 0#8) (mk (argField w))

/-- Format IA (R95): `idx` and `arg`; no zero bits. -/
def formatIA (w : Cmd) (mk : Byte → Word → Instr) : Except DecodeError Instr :=
  .ok (mk (idxField w) (argField w))

/-- Format UA (R96): the unit `idx[0]` and the duration `arg`. -/
def formatUA (w : Cmd) (mk : TimeUnit → Word → Instr) : Except DecodeError Instr :=
  whenZero w ((idxField w).extractLsb' 1 7 == 0#7) (mk (unitOfBit ((idxField w).getLsbD 0)) (argField w))

/-! ### The opcode map (R98) -/

/-- The port on which an opcode is legal; none for an opcode in no row of R98. -/
def portOf (op : Byte) : Option Port :=
  match op with
  | 0x20#8 => some .P
  | 0x01#8 | 0x10#8 => some .C
  | 0x21#8 | 0x22#8 | 0x23#8 | 0x24#8 | 0x25#8 => some .C
  | 0x30#8 | 0x31#8 | 0x32#8 | 0x33#8 | 0x34#8 | 0x35#8 | 0x36#8 | 0x37#8 => some .C
  | 0x40#8 | 0x41#8 | 0x42#8 | 0x43#8 | 0x44#8 => some .C
  | 0x50#8 | 0x51#8 => some .C
  | _ => none

/-- The command a word selects: checks (1) and (3) of R101 and the operands of R97. -/
def decode (w : Cmd) : Except DecodeError Instr :=
  match opField w with
  | 0x01#8 => formatB w .csrRead
  | 0x10#8 => formatZ w .millis
  | 0x20#8 => formatB w .rbInsert
  | 0x21#8 => formatI w .rbAvail
  | 0x22#8 => formatI w .rbRead
  | 0x23#8 => formatI w .rbPeek
  | 0x24#8 => formatB w .rbRdUntil
  | 0x25#8 => formatI w .rbInit
  | 0x30#8 => formatUA w .pmSleep
  | 0x31#8 => formatUA w .pmLpSleep
  | 0x32#8 => formatUA w .pmStop
  | 0x33#8 => formatUA w .pmLpStop
  | 0x34#8 => formatZ w .pmStopIrq
  | 0x35#8 => formatZ w .pmStandby
  | 0x36#8 => formatA w .pmStandbySec
  | 0x37#8 => formatI w .pmStandbyPin
  | 0x40#8 => formatI w .rtcInit
  | 0x41#8 => formatA w .rtcArmSec
  | 0x42#8 => formatA w .rtcArmMs
  | 0x43#8 => formatI w .bkpRead
  | 0x44#8 => formatIA w .bkpWrite
  | 0x50#8 => formatI w .clkSelect
  | 0x51#8 => formatZ w .clkCurrent
  | _ => .error (.unknownOp (opField w))

/-- The decoder on a row's bits as spec/opcode_table.json numbers them: a command is one 48-bit word (R90, R106), so
`nbits` is 48 and bits above it are 0. -/
def decodeTableWord (nbits w : Nat) : Option Instr :=
  if nbits ≤ 48 then
    match decode (BitVec.ofNat 48 (w % 2 ^ nbits)) with
    | .ok ins => some ins
    | .error _ => none
  else none

/-! ### The encoder, from the same table (R90 to R98) -/

/-- The opcode of a command (R98). -/
def Instr.opcode : Instr → Byte
  | .csrRead _ _ => 0x01#8
  | .millis => 0x10#8
  | .rbInsert _ _ => 0x20#8
  | .rbAvail _ => 0x21#8
  | .rbRead _ => 0x22#8
  | .rbPeek _ => 0x23#8
  | .rbRdUntil _ _ => 0x24#8
  | .rbInit _ => 0x25#8
  | .pmSleep _ _ => 0x30#8
  | .pmLpSleep _ _ => 0x31#8
  | .pmStop _ _ => 0x32#8
  | .pmLpStop _ _ => 0x33#8
  | .pmStopIrq => 0x34#8
  | .pmStandby => 0x35#8
  | .pmStandbySec _ => 0x36#8
  | .pmStandbyPin _ => 0x37#8
  | .rtcInit _ => 0x40#8
  | .rtcArmSec _ => 0x41#8
  | .rtcArmMs _ => 0x42#8
  | .bkpRead _ => 0x43#8
  | .bkpWrite _ _ => 0x44#8
  | .clkSelect _ => 0x50#8
  | .clkCurrent => 0x51#8

/-- The `idx` field of a command's word (R91 to R96). -/
def Instr.idx : Instr → Byte
  | .csrRead n _ => n
  | .millis => 0#8
  | .rbInsert i _ => i
  | .rbAvail i => i
  | .rbRead i => i
  | .rbPeek i => i
  | .rbRdUntil i _ => i
  | .rbInit i => i
  | .pmSleep u _ => 0#7 ++ bitOfUnit u
  | .pmLpSleep u _ => 0#7 ++ bitOfUnit u
  | .pmStop u _ => 0#7 ++ bitOfUnit u
  | .pmLpStop u _ => 0#7 ++ bitOfUnit u
  | .pmStopIrq => 0#8
  | .pmStandby => 0#8
  | .pmStandbySec _ => 0#8
  | .pmStandbyPin p => p
  | .rtcInit s => s
  | .rtcArmSec _ => 0#8
  | .rtcArmMs _ => 0#8
  | .bkpRead k => k
  | .bkpWrite k _ => k
  | .clkSelect c => c
  | .clkCurrent => 0#8

/-- The `arg` field of a command's word (R91 to R96). -/
def Instr.arg : Instr → Word
  | .csrRead _ b => 0#24 ++ b
  | .millis => 0#32
  | .rbInsert _ b => 0#24 ++ b
  | .rbAvail _ => 0#32
  | .rbRead _ => 0#32
  | .rbPeek _ => 0#32
  | .rbRdUntil _ t => 0#24 ++ t
  | .rbInit _ => 0#32
  | .pmSleep _ d => d
  | .pmLpSleep _ d => d
  | .pmStop _ d => d
  | .pmLpStop _ d => d
  | .pmStopIrq => 0#32
  | .pmStandby => 0#32
  | .pmStandbySec d => d
  | .pmStandbyPin _ => 0#32
  | .rtcInit _ => 0#32
  | .rtcArmSec d => d
  | .rtcArmMs d => d
  | .bkpRead _ => 0#32
  | .bkpWrite _ w => w
  | .clkSelect _ => 0#32
  | .clkCurrent => 0#32

/-- The command word of a command. -/
def encode (ins : Instr) : Cmd := cmdOf ins.opcode ins.idx ins.arg

/-! ### The table of R98 as data -/

/-- One row of the opcode table: a word `w` selects the row iff `w AND mask = match`. -/
structure OpRow where
  /-- The opcode. -/
  op : Byte
  /-- The port on which the opcode is legal. -/
  port : Port
  /-- The column `match`. -/
  pattern : Cmd
  /-- The column `mask`. -/
  mask : Cmd
  deriving DecidableEq, Repr

/-- A word selects a row (R98). -/
def OpRow.selects (r : OpRow) (w : Cmd) : Bool := w &&& r.mask == r.pattern

/-- The mask column's value for each format (R91 to R96). -/
def maskZ : Cmd := 0xFFFFFFFFFFFF#48
/-- Format I. -/
def maskI : Cmd := 0xFF00FFFFFFFF#48
/-- Format B. -/
def maskB : Cmd := 0xFF00FFFFFF00#48
/-- Format A. -/
def maskA : Cmd := 0xFFFF00000000#48
/-- Format IA. -/
def maskIA : Cmd := 0xFF0000000000#48
/-- Format UA. -/
def maskUA : Cmd := 0xFFFE00000000#48

/-- The complete opcode table of R98, in its order. -/
def opcodeTable : List OpRow :=
  [⟨0x01#8, .C, 0x010000000000#48, maskB⟩,
   ⟨0x10#8, .C, 0x100000000000#48, maskZ⟩,
   ⟨0x20#8, .P, 0x200000000000#48, maskB⟩,
   ⟨0x21#8, .C, 0x210000000000#48, maskI⟩,
   ⟨0x22#8, .C, 0x220000000000#48, maskI⟩,
   ⟨0x23#8, .C, 0x230000000000#48, maskI⟩,
   ⟨0x24#8, .C, 0x240000000000#48, maskB⟩,
   ⟨0x25#8, .C, 0x250000000000#48, maskI⟩] ++
  [⟨0x30#8, .C, 0x300000000000#48, maskUA⟩,
   ⟨0x31#8, .C, 0x310000000000#48, maskUA⟩,
   ⟨0x32#8, .C, 0x320000000000#48, maskUA⟩,
   ⟨0x33#8, .C, 0x330000000000#48, maskUA⟩,
   ⟨0x34#8, .C, 0x340000000000#48, maskZ⟩,
   ⟨0x35#8, .C, 0x350000000000#48, maskZ⟩,
   ⟨0x36#8, .C, 0x360000000000#48, maskA⟩,
   ⟨0x37#8, .C, 0x370000000000#48, maskI⟩] ++
  [⟨0x40#8, .C, 0x400000000000#48, maskI⟩,
   ⟨0x41#8, .C, 0x410000000000#48, maskA⟩,
   ⟨0x42#8, .C, 0x420000000000#48, maskA⟩,
   ⟨0x43#8, .C, 0x430000000000#48, maskI⟩,
   ⟨0x44#8, .C, 0x440000000000#48, maskIA⟩,
   ⟨0x50#8, .C, 0x500000000000#48, maskI⟩,
   ⟨0x51#8, .C, 0x510000000000#48, maskZ⟩]

end Sys2Proof
end

