-- ==== Sys2Proof/Machine/State.lean ====
section
/-! DEFINITION. The state of the block (R20) as plain data, the reasons a step can stop, and the state after reset.
The groups are R20's; the last group is the model's own: the parameters, the inputs presented to the block (command
scripts, the schedule of agent steps), its response outputs, and the number of free values drawn. -/

namespace Sys2Proof.Machine

/-! ### Ring buffers (R21 to R24) -/

/-- The storage `buf[i]` of one ring: its bytes by slot, in one canonical form (slots strictly rising, no entry equal
to `Memory.unlisted`; see `Memory.wf` in Ops.lean). -/
abbrev Memory := List Host.Cell

/-- One ring buffer instance: `HEAD[i]`, `TAIL[i]` and `buf[i]`. A cursor is a number in `0..CAP−1` (R22, R23). -/
structure Ring where
  head : Nat
  tail : Nat
  buf : Memory
  deriving DecidableEq, Repr

/-! ### RTC domain (R26 to R29, R43) -/

/-- `RTC_SRC` (R43): the code 3 never occurs. -/
inductive RtcSrc where
  | none
  | internal
  | external
  deriving DecidableEq, Repr

/-- The RTC domain: source, counter, the two comparators and the backup registers. -/
structure Rtc where
  src : RtcSrc
  /-- `RTCNT`. -/
  cnt : Dword
  alrEn : Bool
  alrIe : Bool
  alrF : Bool
  alrTgt : Dword
  wutEn : Bool
  wutIe : Bool
  wutF : Bool
  wutPeriod : Word
  wutNext : Dword
  /-- `BKP[0..4]`. -/
  bkp : Vector Word 5
  deriving DecidableEq, Repr

/-! ### Power controller (R41) -/

/-- `PSTATE` (R41, R160). -/
inductive PState where
  | active
  | sleepWait
  | stopWait
  | standbyWait
  deriving DecidableEq, Repr

/-- The power controller's fields, read together as `PMSR`. -/
structure Pwr where
  pstate : PState
  gie : Bool
  tickie : Bool
  rtcie : Bool
  lpreg : Bool
  reglpf : Bool
  deep : Bool
  pdds : Bool
  wuf : Bool
  prefetch : Bool
  flashpd : Bool
  vrefen : Bool
  tsen : Bool
  pvden : Bool
  wupen : BitVec 3
  extpend : Bool
  deriving DecidableEq, Repr

/-! ### Clock controller (R42, R44) -/

/-- `CLK_WAIT` (R42). -/
inductive ClkWait where
  | none
  | osc
  | src
  | sw
  deriving DecidableEq, Repr

/-- The clock controller's fields, read together as `CLKSR`. -/
structure Clk where
  /-- `CLK_ACTIVE`. -/
  active : ClkId
  /-- `CLK_CURRENT`. -/
  current : ClkId
  /-- `TICK_CFG`. -/
  tickCfg : ClkId
  /-- `CLK_WAIT`. -/
  wait : ClkWait
  deriving DecidableEq, Repr

/-! ### Consumer sequencer (R30) -/

/-- The steps of `ClockApply` (R242). -/
inductive KStep where
  | k1
  | k2
  | k3
  | k4
  | k5
  | k6
  deriving DecidableEq, Repr

/-- The names of the numbered steps of the port-C commands, one name per rule line. `K` is a step of `CLK_SELECT`;
`E10` and `W4`, which run `ClockDown` and `ClockApply`, say which of its steps is next. -/
inductive StepName where
  | X1
  | M1
  | A1
  | A2
  | D1
  | D2
  | D3
  | D4
  | P1
  | P2
  | P3
  | U1
  | U2
  | U3
  | U4
  | Z1
  | E1
  | E2
  | E3
  | E4
  | E5
  | E6
  | E7
  | E8
  | E9
  | E10 (k : KStep)
  | E11
  | E12
  | Q1
  | Q2
  | Q3
  | Q4
  | Q5
  | Q6
  | W1
  | W2
  | W3
  | W4 (k : KStep)
  | W5
  | W6
  | W7
  | B1
  | B2
  | B3
  | B4
  | B5
  | B6
  | B7
  | B8
  | I1
  | S1
  | T1
  | G1
  | H1
  | K (k : KStep)
  | V1
  deriving DecidableEq, Repr

/-- A command in flight on port C: the command (R30's `op`, `idx`, `arg`), the next step, and the rule's temporaries
`h`, `v`, `n`, `c`, each zero until its rule writes it (no rule reads one before). -/
structure Flight where
  ins : Instr
  step : StepName
  h : Nat
  v : Byte
  n : Word
  c : ClkId
  deriving DecidableEq, Repr

/-- `SEQ`. -/
inductive Seq where
  | idle
  | busy (f : Flight)
  deriving DecidableEq, Repr

/-! ### Ports, events, outcomes -/

/-- `st` of a response (R102): 2 and 3 are never produced. -/
inductive Status where
  | ok
  | illegal
  deriving DecidableEq, Repr

/-- A response `(st, val)` (R102). -/
structure Rsp where
  st : Status
  val : Word
  deriving DecidableEq, Repr

/-- One entry of the schedule: which agent (R3) takes the next step. -/
inductive Move where
  /-- Port C: the next step of the command in flight, or the command presented. -/
  | portC
  /-- Port P: the command presented. -/
  | portP
  /-- EV_TICK (R121). -/
  | evTick
  /-- EV_RTCMS (R214). -/
  | evRtcMs
  /-- EV_REGRDY (R177). -/
  | evRegRdy
  /-- EV_CLKRDY (R245). -/
  | evClkRdy
  /-- EV_WKUP(p) (R175). -/
  | evWkup (p : Fin 3)
  /-- EV_EXTIRQ (R176). -/
  | evExtIrq
  /-- PowerOnReset (R310). -/
  | powerOnReset
  /-- StandbyExitReset (R174, R310). -/
  | standbyExitReset
  deriving DecidableEq, Repr

/-- The model faults (R272): the points where the source leaves the behaviour undefined. Both are safe: the machine
stops where the hardware may go on. -/
inductive Fault where
  /-- Raised by every `Arm` step with `RTC_SRC = 0` (R213, D21): steps S1, T1, E4 and B4 of `PM_STANDBY_SEC`. Safe. -/
  | rtcNotInitialised
  /-- Raised by the first step of W4 with `CLK_CURRENT = CLK_NONE` (R168, R242, D35). Safe. -/
  | noClockRecorded
  deriving DecidableEq, Repr

/-- The model refusals: inputs the model gives no meaning. All are safe. -/
inductive Refusal where
  /-- An instruction with no meaning yet; raised by the dispatch alone. Safe. -/
  | notModelled (mnemonic : String)
  /-- A known opcode presented on the port where it is not legal (R99, U11); raised by the ports. Safe. -/
  | wrongPort (op : Byte)
  /-- An unknown opcode presented on port P (R101); raised by port P. Safe. -/
  | unknownOnPortP (op : Byte)
  /-- A port-C command executed while another is in flight (R30, R178, U1): raised by a meaning; no step of the machine
  presents one, since port C accepts a command only when `SEQ = Idle`. Safe. -/
  | portCBusy
  /-- `SEQ` names a step that its command does not have: raised by a meaning; no run from reset reaches such a state
  (the invariant `SeqOk` rules it out). Safe. -/
  | notAStep
  deriving DecidableEq, Repr

/-! ### The state -/

/-- The state of the block (R20), and the model's own fields (`cfg` and below). -/
structure State where
  /-- The ring buffers, instance 0 first (R21 to R24). -/
  rings : List Ring
  /-- `TICK` (R25). -/
  tick : Word
  /-- The RTC domain (R26 to R29, R43). -/
  rtc : Rtc
  /-- The power controller (R41). -/
  pwr : Pwr
  /-- The clock controller (R42). -/
  clk : Clk
  /-- The consumer sequencer (R30). -/
  seq : Seq
  /-- `ACC`, oldest pair first (R31). -/
  acc : List (Byte × Byte)
  /-- `FAULTED` (R36): 0 is none; 1 is some fault, with its reason kept. -/
  faulted : Option Fault
  /-- The parameters of R7, fixed for a run. -/
  cfg : Params
  /-- The words still to be presented on port C, the presented one first (R4, R20). -/
  cmdC : List Cmd
  /-- The words still to be presented on port P, the presented (or held) one first (R4, R34). -/
  cmdP : List Cmd
  /-- The schedule of agent steps (R20, R70), next first; when it is empty port C moves. -/
  sched : List Move
  /-- The response port C drives: that of the last command that responded, none since a command was accepted (R4). -/
  rspC : Option Rsp
  /-- The response port P drives (R4). -/
  rspP : Option Rsp
  /-- How many times free values have been drawn. -/
  draws : Nat
  deriving DecidableEq, Repr

/-! ### Reset (R311) -/

/-- The values R311 leaves "unspecified" that a rule can read: ring storage is not among them (R21). -/
structure Draw where
  prefetch : Bool
  vrefen : Bool
  tsen : Bool
  pvden : Bool
  rtcnt : Dword
  alrTgt : Dword
  wutPeriod : Word
  wutNext : Dword
  bkp : Vector Word 5
  deriving DecidableEq, Repr

/-- The draw of `State.reset`: all zero. DESIGN CHOICE (log entry 4, unsafe): R311 leaves these open. -/
def Draw.zero : Draw where
  prefetch := false
  vrefen := false
  tsen := false
  pvden := false
  rtcnt := 0#64
  alrTgt := 0#64
  wutPeriod := 0#32
  wutNext := 0#64
  bkp := Vector.replicate 5 0#32

/-- An empty ring with nothing stored (R311). -/
def Ring.reset : Ring := ⟨0, 0, []⟩

/-- The RTC domain after PowerOnReset (R311). -/
def Rtc.reset (d : Draw) : Rtc where
  src := .none
  cnt := d.rtcnt
  alrEn := false
  alrIe := false
  alrF := false
  alrTgt := d.alrTgt
  wutEn := false
  wutIe := false
  wutF := false
  wutPeriod := d.wutPeriod
  wutNext := d.wutNext
  bkp := d.bkp

/-- The power controller after PowerOnReset (R311). -/
def Pwr.reset (d : Draw) : Pwr where
  pstate := .active
  gie := true
  tickie := false
  rtcie := false
  lpreg := false
  reglpf := false
  deep := false
  pdds := false
  wuf := false
  prefetch := d.prefetch
  flashpd := false
  vrefen := d.vrefen
  tsen := d.tsen
  pvden := d.pvden
  wupen := 0#3
  extpend := false

/-- The clock controller after a reset (R311). -/
def Clk.reset : Clk where
  active := clkResetDef
  current := clkNone
  tickCfg := clkNone
  wait := .none

/-- The state at the start of a run with parameters `p` and draw `d` (R311): nothing presented, nothing scheduled. -/
def State.powerOn (p : Params) (d : Draw) : State where
  rings := List.replicate p.nRb Ring.reset
  tick := 0#32
  rtc := Rtc.reset d
  pwr := Pwr.reset d
  clk := Clk.reset
  seq := .idle
  acc := []
  faulted := none
  cfg := p
  cmdC := []
  cmdP := []
  sched := []
  rspC := none
  rspP := none
  draws := 0

/-- The machine right after PowerOnReset (R311), with the default parameters. -/
def State.reset : State := State.powerOn Params.default Draw.zero

end Sys2Proof.Machine
end

