-- ==== Sys2Proof/Machine/Ops.lean ====
section
/-! DEFINITION. The named operations over storage, registers and the sequencer that the rules share: ring storage,
cursors, responses, the sequencer's advance, `Arm`, the clock steps, the wait step, and the two resets. The block has no
exceptions (R270); leaving standby (R277) is the one reset-like entry, `standbyExitReset` below, and nothing returns
from it. -/

namespace Sys2Proof.Machine

/-- The outcome of a meaning or a step. -/
abbrev Out := Host.Outcome State Fault Refusal

/-! ### Ring storage (R60, R61) -/

/-- What a slot that no entry lists reads as. DESIGN CHOICE (log entry 6, unsafe): the spec leaves the reset contents of
a ring unspecified; no rule reads a slot before `RB_INSERT` has written it (R21). -/
def Memory.unlisted : Byte := 0#8

/-- The byte at a slot. -/
def Memory.read : Memory → Nat → Byte
  | [], _ => Memory.unlisted
  | (a, b) :: m, k => if a = k then b else Memory.read m k

/-- The storage with `v` at slot `k`; the canonical form is kept. -/
def Memory.write : Memory → Nat → Byte → Memory
  | [], k, v => if v = Memory.unlisted then [] else [(k, v)]
  | (a, b) :: m, k, v =>
    if k < a then
      if v = Memory.unlisted then (a, b) :: m else (k, v) :: (a, b) :: m
    else if k = a then
      if v = Memory.unlisted then m else (k, v) :: m
    else (a, b) :: Memory.write m k v

/-- The canonical form: slots strictly rising, no entry equal to what an unlisted slot reads as. -/
def Memory.wf : Memory → Bool
  | [] => true
  | (a, b) :: m => m.all (fun cell => decide (a < cell.1)) && (b != Memory.unlisted) && Memory.wf m

/-- Ring `i`; an instance that does not exist reads as an empty ring (no command reaches one, R130). -/
def ringAt (i : Nat) (s : State) : Ring := s.rings.getD i Ring.reset

/-- Replace ring `i`. -/
def setRing (i : Nat) (r : Ring) (s : State) : State := { s with rings := s.rings.set i r }

/-- `BufRead(i, k)` (R61). -/
def bufRead (i k : Nat) (s : State) : Byte := (ringAt i s).buf.read k

/-- `BufWrite(i, k, v)` (R61). -/
def bufWrite (i k : Nat) (v : Byte) (s : State) : State :=
  setRing i { ringAt i s with buf := (ringAt i s).buf.write k v } s

/-- `HEAD[i] <- x`. -/
def setHead (i x : Nat) (s : State) : State := setRing i { ringAt i s with head := x } s

/-- `TAIL[i] <- x`. -/
def setTail (i x : Nat) (s : State) : State := setRing i { ringAt i s with tail := x } s

/-- `advance(c) = (c + 1) mod CAP` (R62). -/
def advance (cap c : Nat) : Nat := (c + 1) % cap

/-- `(CAP + h − t) mod CAP` (R24 (b), R132). -/
def availCount (cap h t : Nat) : Nat := (cap + h - t) % cap

/-! ### Responses (R9, R102) and the sequencer (R30) -/

/-- `respond(st, val)` on port C: the response is driven and `SEQ <- Idle`. -/
def respondC (st : Status) (val : Word) (s : State) : State :=
  { s with rspC := some ⟨st, val⟩, seq := .idle }

/-- `respond(st, val)` on port P. -/
def respondP (st : Status) (val : Word) (s : State) : State :=
  { s with rspP := some ⟨st, val⟩ }

/-- The answer to a reserved encoding on port C: `respond(ILLEGAL, 0)` and no other change (R100). -/
def illegalC (s : State) : State := respondC .illegal 0#32 s

/-- The answer to a reserved encoding on port P (R102). -/
def illegalP (s : State) : State := respondP .illegal 0#32 s

/-- A command just accepted on port C: at its first step, temporaries unset. -/
def Flight.start (ins : Instr) (first : StepName) : Flight := ⟨ins, first, 0, 0#8, 0#32, 0#8⟩

/-- `SEQ` advances to the step `st` of the command in flight. -/
def goto (f : Flight) (st : StepName) (s : State) : State :=
  { s with seq := .busy { f with step := st } }

/-- Run one step of the port-C command `ins` (R30): when `SEQ = Idle` the command is accepted, its operands checked
(R100 (c), R101 (4)) and its first step run; when it is in flight the step that `SEQ` names is run. -/
def onPortC (ins : Instr) (legal : Bool) (first : StepName) (body : Flight → State → Out) (s : State) : Out :=
  match s.seq with
  | .idle =>
    if legal then
      body (Flight.start ins first) { s with seq := .busy (Flight.start ins first), rspC := none }
    else .next (illegalC s)
  | .busy f => if f.ins = ins then body f s else .refused .portCBusy

/-- What the action of one numbered step comes to: a hold that does not pass, a new state, or a model fault (R10). -/
inductive Act where
  | held
  | done (s : State)
  | faults (r : Fault)
  deriving DecidableEq, Repr

/-- A step from its action: a hold leaves everything as it is, and an action that is done is followed by `k`, which
moves the sequencer. -/
def Act.andThen (a : Act) (s : State) (k : State → State) : Out :=
  match a with
  | .held => .next s
  | .done t => .next (k t)
  | .faults r => .fault r

/-! ### The RTC Wake Engine (R213) -/

/-- The alarm comparator disarmed: `Arm(0, 0)` past its check. -/
def disarmAlarm (r : Rtc) : Rtc := { r with alrEn := false, alrIe := false, alrF := false }

/-- The wake-up timer disarmed: `Arm(1, 0)` past its check. -/
def disarmTimer (r : Rtc) : Rtc := { r with wutEn := false, wutIe := false, wutF := false }

/-- The alarm armed `ms` milliseconds from now, modulo 2^64. -/
def armAlarm (ms : Dword) (r : Rtc) : Rtc :=
  { r with alrTgt := r.cnt + ms, alrF := false, alrEn := true, alrIe := true }

/-- The wake-up timer armed with period `d`, first match `d` milliseconds from now, modulo 2^64. -/
def armTimer (d : Word) (r : Rtc) : Rtc :=
  { r with wutPeriod := d, wutNext := r.cnt + d.setWidth 64, wutF := false, wutEn := true, wutIe := true }

/-- `1000 * zext_64(d)` (R97, R213): the product is below 2^42, so it is never truncated. -/
def millisOfSeconds (d : Word) : Dword := 1000#64 * d.setWidth 64

/-- `Arm(u, d)` past its check: which comparator, and whether it is armed or disarmed. -/
def armRtc (u : TimeUnit) (d : Word) (r : Rtc) : Rtc :=
  match u with
  | .seconds => if d = 0#32 then disarmAlarm r else armAlarm (millisOfSeconds d) r
  | .milliseconds => if d = 0#32 then disarmTimer r else armTimer d r

/-- `Arm(u, d)` (R213), one atomic step. -/
def arm (u : TimeUnit) (d : Word) (s : State) : Act :=
  if s.rtc.src = .none then .faults .rtcNotInitialised
  else .done { s with rtc := armRtc u d s.rtc }

/-! ### The Clock Controller (R242 to R244) -/

/-- `ClockTreeReset` (R244). -/
def clockTreeReset (s : State) : State :=
  { s with clk := { s.clk with active := clkResetDef, wait := .none } }

/-- A clock hold (K2, K3, K4): held while `CLK_WAIT ≠ 0`. -/
def clockHold (s : State) (k : Clk → Clk) : Act :=
  if s.clk.wait = .none then .done { s with clk := k s.clk } else .held

/-- One step of `ClockApply(c)` (R242); `ClockDown` (R243) is its steps K1 to K4 with `c = CLK_LP`. -/
def clockStep (c : ClkId) (k : KStep) (s : State) : Act :=
  match k with
  | .k1 => if c = clkNone then .faults .noClockRecorded else .done { s with clk := { s.clk with wait := .osc } }
  | .k2 => clockHold s fun clk => { clk with wait := .src }
  | .k3 => clockHold s fun clk => { clk with wait := .sw }
  | .k4 => clockHold s fun clk => { clk with active := c }
  | .k5 => .done { s with clk := { s.clk with tickCfg := c }, pwr := { s.pwr with tickie := true } }
  | .k6 => .done { s with clk := { s.clk with current := c } }

/-- The step of `ClockApply` after `k`, none after K6. -/
def KStep.succ : KStep → Option KStep
  | .k1 => some .k2
  | .k2 => some .k3
  | .k3 => some .k4
  | .k4 => some .k5
  | .k5 => some .k6
  | .k6 => none

/-! ### The wait step (R166) -/

/-- The wait state that `DEEP` and `PDDS` select (R166, D30). -/
def waitState (p : Pwr) : PState :=
  if p.deep then (if p.pdds then .standbyWait else .stopWait) else .sleepWait

/-- The wait-for-interrupt step E11, Q5, B7 (R166). -/
def enterWait (s : State) : State :=
  { s with pwr := { s.pwr with pstate := waitState s.pwr, reglpf := s.pwr.lpreg || s.pwr.reglpf } }

/-! ### Resets (R310 to R312) -/

/-- The free values of draw `n` (U14, log entry 5). -/
def freeDraw (n : Nat) : Draw where
  prefetch := Config.freePrefetch n
  vrefen := Config.freeVrefen n
  tsen := Config.freeTsen n
  pvden := Config.freePvden n
  rtcnt := Config.freeRtcnt n
  alrTgt := Config.freeAlrTgt n
  wutPeriod := Config.freeWutPeriod n
  wutNext := Config.freeWutNext n
  bkp := Vector.ofFn fun k => Config.freeBkp n k.val

/-- The block's state after a reset event with draw `d`, on the run so far: `ACC` and `FAULTED` are not reset (R31,
R36), the scripts and the schedule go on (D42), and the ports drive no response. -/
def resetBlock (d : Draw) (s : State) : State :=
  { State.powerOn s.cfg d with
    acc := s.acc, faulted := s.faulted, cmdC := s.cmdC, cmdP := s.cmdP, sched := s.sched, draws := s.draws + 1 }

/-- PowerOnReset as an event (R310, R311), always enabled. -/
def powerOnReset (s : State) : State := resetBlock (freeDraw s.draws) s

/-- The RTC domain after StandbyExitReset (R312): `BKP`, `RTCNT` and `RTC_SRC` are preserved, the comparator targets
are free values, and the six comparator bits are free values unless `RTC_SRC = 0`, where they are 0 (C7). -/
def rtcAfterStandby (n : Nat) (r : Rtc) : Rtc where
  src := r.src
  cnt := r.cnt
  alrEn := if r.src = .none then false else Config.freeAlrEn n
  alrIe := if r.src = .none then false else Config.freeAlrIe n
  alrF := if r.src = .none then false else Config.freeAlrF n
  alrTgt := Config.freeAlrTgt n
  wutEn := if r.src = .none then false else Config.freeWutEn n
  wutIe := if r.src = .none then false else Config.freeWutIe n
  wutF := if r.src = .none then false else Config.freeWutF n
  wutPeriod := Config.freeWutPeriod n
  wutNext := Config.freeWutNext n
  bkp := r.bkp

/-- What StandbyExitReset leaves (R312): a new `Active` with `SEQ = Idle`; `WUF` is a free value. -/
def standbyExit (s : State) : State :=
  { resetBlock (freeDraw s.draws) s with
    rtc := rtcAfterStandby s.draws s.rtc
    pwr := { Pwr.reset (freeDraw s.draws) with wuf := Config.freeWuf s.draws } }

end Sys2Proof.Machine
end

