-- ==== Sys2Proof/Machine/Operands.lean ====
section
/-! DEFINITION. Operand ranges as the machine checks them (R64, R100 (c)) and the values operands stand for (R96, R97,
R173, R210). -/

namespace Sys2Proof.Machine

/-- A ring instance exists: `idx < N_RB` (R130). -/
def ringLegal (i : Byte) (s : State) : Bool := decide (i.toNat < s.cfg.nRb)

/-- A backup index exists: `idx < 5` (R216, R217). -/
def bkpLegal (k : Byte) : Bool := decide (k.toNat < 5)

/-- A wake-up pin exists: `idx < 3` (R173). -/
def pinLegal (p : Byte) : Bool := decide (p.toNat < 3)

/-- A clock configuration can be selected: `idx < N_CLK` (R240). -/
def clkLegal (c : Byte) (s : State) : Bool := decide (c.toNat < s.cfg.nClk)

/-- The RTC source an operand names (R210); none for an operand outside {1, 2}. -/
def rtcSource (src : Byte) : Option RtcSrc :=
  if src = 1#8 then some .internal else if src = 2#8 then some .external else none

/-- An RTC source operand is 1 or 2 (R210). -/
def rtcSourceLegal (src : Byte) : Bool := (rtcSource src).isSome

/-- A CSR number and instance that `CSR_READ` can read (R40, R50, R260). -/
def csrLegal (n b : Byte) (s : State) : Bool :=
  if n = 0x10#8 ∨ n = 0x11#8 then ringLegal b s else decide (n.toNat ≤ 0x0B) && decide (b = 0#8)

/-- `WUPEN` with the bit of pin `p` set (R41, R173). -/
def enablePin (p : Byte) (wupen : BitVec 3) : BitVec 3 := wupen ||| (1#3 <<< p.toNat)

/-- The low-power variant bit `lp = op[0]` of a timed power opcode (R97, R161). -/
def lpOf (op : Byte) : Bool := op.getLsbD 0

/-- The stop-rather-than-sleep bit `deep = op[1]` of a timed power opcode (R97, R161). -/
def deepOf (op : Byte) : Bool := op.getLsbD 1

/-- The empty sentinel of `RB_READ` and `RB_PEEK` (R102, R133, D6). -/
def emptySentinel : Word := 0xFFFFFFFF#32

end Sys2Proof.Machine
end

