-- ==== Sys2Proof/Machine/Flags.lean ====
section
/-! DEFINITION. Derived signals (R33, R34), wake conditions (R167, R174), and the status registers that show the flags
(R40 to R43, R49, R50). The block has no arithmetic condition codes (R32). -/

namespace Sys2Proof.Machine

/-! ### Derived signals -/

/-- `rtc_irq` (R33), a level. -/
def rtcIrq (r : Rtc) : Bool := (r.alrF && r.alrIe) || (r.wutF && r.wutIe)

/-- `IntCtx` (R34): interrupt handlers can run. -/
def intCtx (p : Pwr) : Bool := p.gie && decide (p.pstate = .active)

/-- The wake condition of a timed wait, E12 (R167). -/
def timedWake (s : State) : Bool :=
  (s.pwr.rtcie && rtcIrq s.rtc) || (s.cfg.timedWaitExtWake && s.pwr.extpend)

/-- StandbyExitReset is enabled (R174). -/
def standbyExitEnabled (s : State) : Bool :=
  decide (s.pwr.pstate = .standbyWait) && (s.pwr.wuf || rtcIrq s.rtc)

/-- The RTC source oscillates: `RTC_SRC ≠ 0 ∧ RTC_SRC_PRESENT(RTC_SRC)` (R214). -/
def rtcRunning (s : State) : Bool :=
  match s.rtc.src with
  | .none => false
  | .internal => s.cfg.rtcSrc1Present
  | .external => s.cfg.rtcSrc2Present

/-! ### Field codes -/

/-- `PSTATE` as its two bits (R41). -/
def PState.code : PState → BitVec 2
  | .active => 0#2
  | .sleepWait => 1#2
  | .stopWait => 2#2
  | .standbyWait => 3#2

/-- `CLK_WAIT` as its two bits (R42). -/
def ClkWait.code : ClkWait → BitVec 2
  | .none => 0#2
  | .osc => 1#2
  | .src => 2#2
  | .sw => 3#2

/-- `RTC_SRC` as its two bits (R43). -/
def RtcSrc.code : RtcSrc → BitVec 2
  | .none => 0#2
  | .internal => 1#2
  | .external => 2#2

/-- `st` as its two bits (R102). -/
def Status.code : Status → BitVec 2
  | .ok => 0#2
  | .illegal => 1#2

/-- The 34-bit response word (R102). -/
def Rsp.word (r : Rsp) : BitVec 34 := r.st.code ++ r.val

/-! ### Status registers (R40) -/

/-- One bit. -/
def bit (b : Bool) : BitVec 1 := BitVec.ofBool b

/-- `PMSR` (R41), bit 31 first. -/
def pmsr (p : Pwr) : Word :=
  0#13 ++ bit p.extpend ++ p.wupen ++ bit p.pvden ++ bit p.tsen ++ bit p.vrefen ++ bit p.flashpd ++ bit p.prefetch
    ++ bit p.wuf ++ bit p.pdds ++ bit p.deep ++ bit p.reglpf ++ bit p.lpreg ++ bit p.rtcie ++ bit p.tickie ++ bit p.gie
    ++ p.pstate.code

/-- `CLKSR` (R42), bit 31 first. -/
def clksr (c : Clk) : Word := 0#6 ++ c.wait.code ++ c.tickCfg ++ c.current ++ c.active

/-- `RTCSR` (R43), bit 31 first. -/
def rtcsr (r : Rtc) : Word :=
  0#24 ++ bit r.wutF ++ bit r.wutIe ++ bit r.wutEn ++ bit r.alrF ++ bit r.alrIe ++ bit r.alrEn ++ r.src.code

/-- `SEQSR` (R49): the opcode of the command in flight, 0 when `SEQ = Idle`. -/
def seqsr (q : Seq) : Word :=
  match q with
  | .idle => 0#32
  | .busy f => f.ins.opcode.setWidth 32

/-- The low word of a 64-bit quantity. -/
def lowWord (x : Dword) : Word := x.extractLsb' 0 32

/-- The high word of a 64-bit quantity. -/
def highWord (x : Dword) : Word := x.extractLsb' 32 32

/-- `CSR[n]`, of ring instance `b` for 0x10 and 0x11 (R40, R260). A number not in the table is never read (R100 (c)). -/
def csrWord (n b : Byte) (s : State) : Word :=
  match n with
  | 0x00#8 => pmsr s.pwr
  | 0x01#8 => clksr s.clk
  | 0x02#8 => rtcsr s.rtc
  | 0x03#8 => lowWord s.rtc.cnt
  | 0x04#8 => highWord s.rtc.cnt
  | 0x05#8 => lowWord s.rtc.alrTgt
  | 0x06#8 => highWord s.rtc.alrTgt
  | 0x07#8 => s.rtc.wutPeriod
  | 0x08#8 => lowWord s.rtc.wutNext
  | 0x09#8 => highWord s.rtc.wutNext
  | 0x0A#8 => s.tick
  | 0x0B#8 => seqsr s.seq
  | 0x10#8 => BitVec.ofNat 32 (ringAt b.toNat s).head
  | 0x11#8 => BitVec.ofNat 32 (ringAt b.toNat s).tail
  | _ => 0#32

end Sys2Proof.Machine
end

