-- ==== Sys2Proof/Machine/Clock.lean ====
section
/-! DEFINITION. Clock Controller (44_clock_controller.md). -/

namespace Sys2Proof.Machine

/-- `CLK_SELECT c` (R240): K1 to K6, then the response. The response belongs to the last numbered step (log entry 9). -/
def execClkSelect (c : Byte) (s : State) : Out :=
  onPortC (.clkSelect c) (clkLegal c s) (.K .k1) (fun f s =>
    match f.step with
    | .K k => (clockStep c k s).andThen s (fun t =>
        match k.succ with
        | some k' => goto { f with c := c } (.K k') t
        | none => respondC .ok 0#32 t)
    | _ => .refused .notAStep) s

/-- `CLK_CURRENT` (R241): V1. -/
def execClkCurrent (s : State) : Out :=
  onPortC .clkCurrent true .V1 (fun f s =>
    match f.step with
    | .V1 => .next (respondC .ok (s.clk.current.setWidth 32) s)
    | _ => .refused .notAStep) s

/-- EV_CLKRDY (R245): enabled iff `CLK_WAIT ≠ 0`, in which case it clears it. -/
def evClkRdy (s : State) : State :=
  if s.clk.wait ≠ .none then { s with clk := { s.clk with wait := .none } } else s

end Sys2Proof.Machine
end

