-- ==== Sys2Proof/Machine/Power.lean ====
section
/-! DEFINITION. Power Mode Controller (42_power_modes.md): the step lists E1-E12, W1-W7, Q1-Q6, B1-B8 and the events
the controller reacts to. -/

namespace Sys2Proof.Machine

/-- Write power controller fields. -/
def onPwr (g : Pwr → Pwr) (s : State) : State := { s with pwr := g s.pwr }

/-! ### The Wake list (R168) -/

/-- The clock id of W4: `CLK_CURRENT`, read as W4 begins and kept in `c`. -/
def replayed (f : Flight) (k : KStep) (s : State) : ClkId := if k = .k1 then s.clk.current else f.c

/-- The Wake list W1 to W6 (R168). `afterW6` is what stands after W6: W7 for a timed command, the
response for `PM_STOP_IRQ`. `other` is the answer at a step name of no list. -/
def wakeStep (afterW6 : State → State) (other : Out) (f : Flight) (s : State) : Out :=
  match f.step with
  | .W1 => .next (goto f .W2 (onPwr (fun p => { p with lpreg := false }) s))
  | .W2 => if s.pwr.reglpf then .next s else .next (goto f .W3 s)
  | .W3 => .next (goto f (.W4 .k1) (clockTreeReset s))
  | .W4 k => (clockStep (replayed f k s) k s).andThen s (fun t =>
      match k.succ with
      | some k' => goto { f with c := replayed f k s } (.W4 k') t
      | none => goto f .W5 t)
  | .W5 => .next (goto f .W6 (onPwr (fun p => { p with gie := true, extpend := false }) s))
  | .W6 => .next (afterW6 (onPwr (fun p => { p with tickie := true }) s))
  | _ => other

/-! ### Timed waits (R161 to R165) -/

/-- `ClockDown` (R243, step E10): the steps K1 to K4 of `ClockApply` with target `CLK_LP`, and not K5, K6. -/
def clockDownStep (f : Flight) (k : KStep) (s : State) : Out :=
  match k with
  | .k1 => (clockStep clkLp .k1 s).andThen s (goto { f with c := clkLp } (.E10 .k2))
  | .k2 => (clockStep clkLp .k2 s).andThen s (goto f (.E10 .k3))
  | .k3 => (clockStep clkLp .k3 s).andThen s (goto f (.E10 .k4))
  | .k4 => (clockStep clkLp .k4 s).andThen s (goto f .E11)
  | .k5 => .refused .notAStep
  | .k6 => .refused .notAStep

/-- A timed command's steps (R161): E1 to E12, E7 to E10 only for the low-power variants, then W1 to W7. -/
def timedStep (lp deep : Bool) (u : TimeUnit) (d : Word) (f : Flight) (s : State) : Out :=
  match f.step with
  | .E1 => .next (goto f .E2 (onPwr (fun p => { p with gie := false }) s))
  | .E2 => .next (goto f .E3 (onPwr (fun p => { p with tickie := false }) s))
  | .E3 => .next (goto f .E4 (onPwr (fun p => { p with rtcie := true }) s))
  | .E4 => (arm u d s).andThen s (goto f .E5)
  | .E5 => .next (goto f .E6 (onPwr (fun p => { p with lpreg := lp }) s))
  | .E6 => .next (goto f (if lp then .E7 else .E11) (onPwr (fun p => { p with deep := deep }) s))
  | .E7 => .next (goto f .E8 (onPwr (fun p => { p with prefetch := false }) s))
  | .E8 => .next (goto f .E9 (onPwr (fun p => { p with flashpd := true }) s))
  | .E9 => .next (goto f (.E10 .k1) (clockTreeReset s))
  | .E10 k => clockDownStep f k s
  | .E11 => .next (goto f .E12 (enterWait s))
  | .E12 => if timedWake s then .next (goto f .W1 (onPwr (fun p => { p with pstate := .active }) s)) else .next s
  | .W7 => (arm u 0#32 s).andThen s (respondC .ok 0#32)
  | _ => wakeStep (goto f .W7) (.refused .notAStep) f s

/-- `PM_SLEEP u, d` (R162): `lp = 0`, `deep = 0`. -/
def execPmSleep (u : TimeUnit) (d : Word) (s : State) : Out :=
  onPortC (.pmSleep u d) true .E1 (timedStep (lpOf 0x30#8) (deepOf 0x30#8) u d) s

/-- `PM_LPSLEEP u, d` (R163): `lp = 1`, `deep = 0`. -/
def execPmLpSleep (u : TimeUnit) (d : Word) (s : State) : Out :=
  onPortC (.pmLpSleep u d) true .E1 (timedStep (lpOf 0x31#8) (deepOf 0x31#8) u d) s

/-- `PM_STOP u, d` (R164): `lp = 0`, `deep = 1`. -/
def execPmStop (u : TimeUnit) (d : Word) (s : State) : Out :=
  onPortC (.pmStop u d) true .E1 (timedStep (lpOf 0x32#8) (deepOf 0x32#8) u d) s

/-- `PM_LPSTOP u, d` (R165): `lp = 1`, `deep = 1`. -/
def execPmLpStop (u : TimeUnit) (d : Word) (s : State) : Out :=
  onPortC (.pmLpStop u d) true .E1 (timedStep (lpOf 0x33#8) (deepOf 0x33#8) u d) s

/-- `PM_STOP_IRQ` (R169): Q1 to Q6, then W1 to W6. -/
def execPmStopIrq (s : State) : Out :=
  onPortC .pmStopIrq true .Q1 (fun f s =>
    match f.step with
    | .Q1 => .next (goto f .Q2 (onPwr (fun p => { p with gie := false }) s))
    | .Q2 => .next (goto f .Q3 (onPwr (fun p => { p with tickie := false }) s))
    | .Q3 => .next (goto f .Q4 (onPwr (fun p => { p with lpreg := false }) s))
    | .Q4 => .next (goto f .Q5 (onPwr (fun p => { p with deep := true }) s))
    | .Q5 => .next (goto f .Q6 (enterWait s))
    | .Q6 => if s.pwr.extpend then .next (goto f .W1 (onPwr (fun p => { p with pstate := .active }) s)) else .next s
    | _ => wakeStep (respondC .ok 0#32) (.refused .notAStep) f s) s

/-! ### Standby (R170 to R173) -/

/-- The standby entry list (R170). `afterB3` is B4 for a command that has one, else B5; `b4` is B4's action. At B8 the
command stays: it never responds. -/
def standbyStep (afterB3 : StepName) (b4 : State → Out) (f : Flight) (s : State) : Out :=
  match f.step with
  | .B1 => .next (goto f .B2 (onPwr (fun p => { p with tickie := false }) s))
  | .B2 => .next (goto f .B3 (onPwr (fun p => { p with wuf := false }) s))
  | .B3 => .next (goto f afterB3 (onPwr (fun p => { p with vrefen := false, tsen := false, pvden := false }) s))
  | .B4 => b4 s
  | .B5 => .next (goto f .B6 (onPwr (fun p => { p with pdds := true }) s))
  | .B6 => .next (goto f .B7 (onPwr (fun p => { p with deep := true }) s))
  | .B7 => .next (goto f .B8 (enterWait s))
  | .B8 => .next s
  | _ => .refused .notAStep

/-- `PM_STANDBY` (R171): B1 to B3, B5 to B8; it has no step B4. -/
def execPmStandby (s : State) : Out :=
  onPortC .pmStandby true .B1 (standbyStep .B5 (fun _ => .refused .notAStep)) s

/-- `PM_STANDBY_SEC d` (R172): B4 is `Arm(0, d)`. -/
def execPmStandbySec (d : Word) (s : State) : Out :=
  onPortC (.pmStandbySec d) true .B1 (fun f =>
    standbyStep .B4 (fun s => (arm .seconds d s).andThen s (goto f .B5)) f) s

/-- `PM_STANDBY_PIN p` (R173): B4 is `WUPEN[p] <- 1`. -/
def execPmStandbyPin (p : Byte) (s : State) : Out :=
  onPortC (.pmStandbyPin p) (pinLegal p) .B1 (fun f =>
    standbyStep .B4 (fun s => .next (goto f .B5 (onPwr (fun q => { q with wupen := enablePin p q.wupen }) s))) f) s

/-! ### Events (R174 to R177) -/

/-- EV_WKUP(p) (R175), always enabled. -/
def evWkup (p : Fin 3) (s : State) : State :=
  if s.pwr.wupen.getLsbD p.val then onPwr (fun q => { q with wuf := true }) s else s

/-- EV_EXTIRQ (R176), always enabled: it is pending only when no handler can run. -/
def evExtIrq (s : State) : State :=
  if intCtx s.pwr then s else onPwr (fun q => { q with extpend := true }) s

/-- EV_REGRDY (R177): enabled iff `LPREG = 0 ∧ REGLPF = 1`. -/
def evRegRdy (s : State) : State :=
  if !s.pwr.lpreg && s.pwr.reglpf then onPwr (fun q => { q with reglpf := false }) s else s

/-- StandbyExitReset (R174), when it is enabled. -/
def evStandbyExit (s : State) : State := if standbyExitEnabled s then standbyExit s else s

end Sys2Proof.Machine
end

