-- ==== Sys2Proof/Machine/RingBuf.lean ====
section
/-! DEFINITION. Ring Buffer (41_ring_buffer.md). -/

namespace Sys2Proof.Machine

/-- The storing part of `RB_INSERT` (R131): the byte is stored, then `HEAD` published; a full ring drops it. -/
def insertByte (i : Nat) (b : Byte) (s : State) : State :=
  let h := (ringAt i s).head
  let next := advance s.cfg.cap h
  if next ≠ (ringAt i s).tail then setHead i next (bufWrite i h b s) else s

/-- `RB_INSERT i, b` (R131), one atomic step of port P; held, with nothing changed, while `IntCtx` is false (R34). -/
def execRbInsert (i b : Byte) (s : State) : Out :=
  if intCtx s.pwr then
    if ringLegal i s then .next (respondP .ok 0#32 (insertByte i.toNat b s)) else .next (illegalP s)
  else .next s

/-- Take the byte at `TAIL[i]`: `TAIL` advances (R133 step D4, R135 step U3). -/
def dropOldest (i : Nat) (s : State) : State := setTail i (advance s.cfg.cap (ringAt i s).tail) s

/-- The byte at `TAIL[i]`. -/
def oldestByte (i : Nat) (s : State) : Byte := bufRead i (ringAt i s).tail s

/-- `RB_AVAIL i` (R132): A1, A2. -/
def execRbAvail (i : Byte) (s : State) : Out :=
  onPortC (.rbAvail i) (ringLegal i s) .A1 (fun f s =>
    match f.step with
    | .A1 => .next (goto { f with h := (ringAt i.toNat s).head } .A2 s)
    | .A2 => .next (respondC .ok (BitVec.ofNat 32 (availCount s.cfg.cap f.h (ringAt i.toNat s).tail)) s)
    | _ => .refused .notAStep) s

/-- `RB_READ i` (R133): D1 to D4. -/
def execRbRead (i : Byte) (s : State) : Out :=
  onPortC (.rbRead i) (ringLegal i s) .D1 (fun f s =>
    match f.step with
    | .D1 => .next (goto { f with h := (ringAt i.toNat s).head } .D2 s)
    | .D2 => if f.h = (ringAt i.toNat s).tail then .next (respondC .ok emptySentinel s) else .next (goto f .D3 s)
    | .D3 => .next (goto { f with v := oldestByte i.toNat s } .D4 s)
    | .D4 => .next (respondC .ok (f.v.setWidth 32) (dropOldest i.toNat s))
    | _ => .refused .notAStep) s

/-- `RB_PEEK i` (R134): P1 to P3. -/
def execRbPeek (i : Byte) (s : State) : Out :=
  onPortC (.rbPeek i) (ringLegal i s) .P1 (fun f s =>
    match f.step with
    | .P1 => .next (goto { f with h := (ringAt i.toNat s).head } .P2 s)
    | .P2 => if f.h = (ringAt i.toNat s).tail then .next (respondC .ok emptySentinel s) else .next (goto f .P3 s)
    | .P3 => .next (respondC .ok ((oldestByte i.toNat s).setWidth 32) s)
    | _ => .refused .notAStep) s

/-- `ACC.emit(i, b)` (R9, R31). -/
def emit (i b : Byte) (s : State) : State := { s with acc := s.acc ++ [(i, b)] }

/-- `RB_RDUNTIL i, t` (R135): U1 to U4, with the one backward transfer of the block. -/
def execRbRdUntil (i t : Byte) (s : State) : Out :=
  onPortC (.rbRdUntil i t) (ringLegal i s) .U1 (fun f s =>
    match f.step with
    | .U1 => .next (goto { f with n := 0#32 } .U2 s)
    | .U2 => if (ringAt i.toNat s).head = (ringAt i.toNat s).tail then .next s else .next (goto f .U3 s)
    | .U3 => .next (goto { f with v := oldestByte i.toNat s } .U4 (dropOldest i.toNat s))
    | .U4 => if f.v = t then .next (respondC .ok f.n s)
             else .next (goto { f with n := f.n + 1#32 } .U2 (emit i f.v s))
    | _ => .refused .notAStep) s

/-- `RB_INIT i` (R136): Z1, one atomic step; `buf` is not cleared. -/
def execRbInit (i : Byte) (s : State) : Out :=
  onPortC (.rbInit i) (ringLegal i s) .Z1 (fun f s =>
    match f.step with
    | .Z1 => .next (respondC .ok 0#32 (setRing i.toNat { ringAt i.toNat s with head := 0, tail := 0 } s))
    | _ => .refused .notAStep) s

end Sys2Proof.Machine
end

