-- ==== Sys2Proof/Machine/RtcWake.lean ====
section
/-! DEFINITION. RTC Wake Engine and backup registers (43_rtc_wake.md). -/

namespace Sys2Proof.Machine

/-- `RTC_INIT s` (R210): I1. -/
def execRtcInit (src : Byte) (s : State) : Out :=
  onPortC (.rtcInit src) (rtcSourceLegal src) .I1 (fun f s =>
    match f.step with
    | .I1 => .next (respondC .ok 0#32 { s with rtc := { s.rtc with src := (rtcSource src).getD s.rtc.src } })
    | _ => .refused .notAStep) s

/-- `RTC_ARM_SEC d` (R211): S1. -/
def execRtcArmSec (d : Word) (s : State) : Out :=
  onPortC (.rtcArmSec d) true .S1 (fun f s =>
    match f.step with
    | .S1 => (arm .seconds d s).andThen s (respondC .ok 0#32)
    | _ => .refused .notAStep) s

/-- `RTC_ARM_MS d` (R212): T1. -/
def execRtcArmMs (d : Word) (s : State) : Out :=
  onPortC (.rtcArmMs d) true .T1 (fun f s =>
    match f.step with
    | .T1 => (arm .milliseconds d s).andThen s (respondC .ok 0#32)
    | _ => .refused .notAStep) s

/-- The backup register `BKP[k]` (R26). -/
def bkpGet (k : Byte) (s : State) : Word := (s.rtc.bkp[k.toNat]?).getD 0#32

/-- `BKP[k] <- w` (R26). -/
def bkpSet (k : Byte) (w : Word) (s : State) : State :=
  { s with rtc := { s.rtc with bkp := s.rtc.bkp.setIfInBounds k.toNat w } }

/-- `BKP_READ k` (R216): G1. -/
def execBkpRead (k : Byte) (s : State) : Out :=
  onPortC (.bkpRead k) (bkpLegal k) .G1 (fun f s =>
    match f.step with
    | .G1 => .next (respondC .ok (bkpGet k s) s)
    | _ => .refused .notAStep) s

/-- `BKP_WRITE k, w` (R217): H1. -/
def execBkpWrite (k : Byte) (w : Word) (s : State) : Out :=
  onPortC (.bkpWrite k w) (bkpLegal k) .H1 (fun f s =>
    match f.step with
    | .H1 => .next (respondC .ok 0#32 (bkpSet k w s))
    | _ => .refused .notAStep) s

/-- The counter moved on by one millisecond, the alarm compared (R214). -/
def alarmMatch (cnt : Dword) (r : Rtc) : Rtc :=
  if r.alrEn && decide (cnt = r.alrTgt) then { r with alrF := true } else r

/-- The counter moved on by one millisecond, the wake-up timer compared (R214): it is periodic. -/
def timerMatch (cnt : Dword) (r : Rtc) : Rtc :=
  if r.wutEn && decide (cnt = r.wutNext) then
    { r with wutF := true, wutNext := cnt + r.wutPeriod.setWidth 64 }
  else r

/-- One millisecond of the RTC domain (R214): the comparisons use the new `RTCNT`. -/
def rtcTick (r : Rtc) : Rtc :=
  let cnt := r.cnt + 1#64
  timerMatch cnt (alarmMatch cnt { r with cnt := cnt })

/-- EV_RTCMS (R214): in every `PSTATE`, not masked by `GIE`, when the source oscillates. -/
def evRtcMs (s : State) : State := if rtcRunning s then { s with rtc := rtcTick s.rtc } else s

end Sys2Proof.Machine
end

