-- ==== Sys2Proof/Machine/StatusRead.lean ====
section
/-! DEFINITION. The status read (45_status.md). -/

namespace Sys2Proof.Machine

/-- `CSR_READ n, b` (R260): X1, one atomic 32-bit read. -/
def execCsrRead (n b : Byte) (s : State) : Out :=
  onPortC (.csrRead n b) (csrLegal n b s) .X1 (fun f s =>
    match f.step with
    | .X1 => .next (respondC .ok (csrWord n b s) s)
    | _ => .refused .notAStep) s

end Sys2Proof.Machine
end

