-- ==== Sys2Proof/Machine/Tick.lean ====
section
/-! DEFINITION. Tick Counter (40_tick_counter.md): `MILLIS` and EV_TICK. -/

namespace Sys2Proof.Machine

/-- `MILLIS` (R120): M1. -/
def execMillis (s : State) : Out :=
  onPortC .millis true .M1 (fun f s =>
    match f.step with
    | .M1 => .next (respondC .ok s.tick s)
    | _ => .refused .notAStep) s

/-- EV_TICK (R121): one tick interrupt, when it is enabled. -/
def evTick (s : State) : State :=
  if intCtx s.pwr && s.pwr.tickie then { s with tick := s.tick + 1#32 } else s

end Sys2Proof.Machine
end

