-- ==== Sys2Proof/Machine/Dispatch.lean ====
section
/-! DEFINITION. One arm per command. `exec ins s` runs ONE step of the command `ins`: the whole of a one-step command;
for a command of several numbered steps its first step when `SEQ = Idle`, else the step that `SEQ` names (R30, D11). -/

namespace Sys2Proof.Machine

def exec (i : Instr) (s : State) : Host.Outcome State Fault Refusal :=
  match i with
  | .csrRead n b => Sys2Proof.Machine.execCsrRead n b s
  | .millis => Sys2Proof.Machine.execMillis s
  | .rbInsert r b => Sys2Proof.Machine.execRbInsert r b s
  | .rbAvail r => Sys2Proof.Machine.execRbAvail r s
  | .rbRead r => Sys2Proof.Machine.execRbRead r s
  | .rbPeek r => Sys2Proof.Machine.execRbPeek r s
  | .rbRdUntil r t => Sys2Proof.Machine.execRbRdUntil r t s
  | .rbInit r => Sys2Proof.Machine.execRbInit r s
  | .pmSleep u d => Sys2Proof.Machine.execPmSleep u d s
  | .pmLpSleep u d => Sys2Proof.Machine.execPmLpSleep u d s
  | .pmStop u d => Sys2Proof.Machine.execPmStop u d s
  | .pmLpStop u d => Sys2Proof.Machine.execPmLpStop u d s
  | .pmStopIrq => Sys2Proof.Machine.execPmStopIrq s
  | .pmStandby => Sys2Proof.Machine.execPmStandby s
  | .pmStandbySec d => Sys2Proof.Machine.execPmStandbySec d s
  | .pmStandbyPin p => Sys2Proof.Machine.execPmStandbyPin p s
  | .rtcInit src => Sys2Proof.Machine.execRtcInit src s
  | .rtcArmSec d => Sys2Proof.Machine.execRtcArmSec d s
  | .rtcArmMs d => Sys2Proof.Machine.execRtcArmMs d s
  | .bkpRead k => Sys2Proof.Machine.execBkpRead k s
  | .bkpWrite k w => Sys2Proof.Machine.execBkpWrite k w s
  | .clkSelect c => Sys2Proof.Machine.execClkSelect c s
  | .clkCurrent => Sys2Proof.Machine.execClkCurrent s

end Sys2Proof.Machine
end

