-- ==== Sys2Proof/Machine/Ports.lean ====
section
/-! DEFINITION. How each agent takes its step (R3, R70): the two command ports, with the order of checks of R101, and
the environment events. An agent whose step is not enabled leaves the block as it is (log entry 8). -/

namespace Sys2Proof.Machine

/-- A word presented on port C is accepted (R101): a wrong-port opcode is refused, a reserved encoding is answered
ILLEGAL, and a command is executed (its operand ranges are checked there). -/
def acceptC (w : Cmd) (s : State) : Out :=
  match portOf (opField w) with
  | none => .next (illegalC s)
  | some .P => .refused (.wrongPort (opField w))
  | some .C =>
    match decode w with
    | .error _ => .next (illegalC s)
    | .ok ins => exec ins s

/-- A step of port C: the next step of the command in flight, else the word presented, if there is one. -/
def portCTurn (s : State) : Out :=
  match s.seq with
  | .busy f => exec f.ins s
  | .idle =>
    match s.cmdC with
    | [] => .next s
    | w :: rest => acceptC w { s with cmdC := rest }

/-- A word presented on port P is accepted (R101): anything but `RB_INSERT` is refused. -/
def acceptP (w : Cmd) (s : State) : Out :=
  match portOf (opField w) with
  | none => .refused (.unknownOnPortP (opField w))
  | some .C => .refused (.wrongPort (opField w))
  | some .P =>
    match decode w with
    | .error _ => .next (illegalP s)
    | .ok ins => exec ins s

/-- A step of port P: the word presented, if there is one; it is held, not lost, while `IntCtx` is false (R34). -/
def portPTurn (s : State) : Out :=
  match s.cmdP with
  | [] => .next s
  | w :: rest => if intCtx s.pwr then acceptP w { s with cmdP := rest } else .next s

/-- One step of the agent that the schedule names. -/
def agentTurn (m : Move) (s : State) : Out :=
  match m with
  | .portC => portCTurn s
  | .portP => portPTurn s
  | .evTick => .next (evTick s)
  | .evRtcMs => .next (evRtcMs s)
  | .evRegRdy => .next (evRegRdy s)
  | .evClkRdy => .next (evClkRdy s)
  | .evWkup p => .next (evWkup p s)
  | .evExtIrq => .next (evExtIrq s)
  | .powerOnReset => .next (powerOnReset s)
  | .standbyExitReset => .next (evStandbyExit s)

/-- The agent that moves next: the head of the schedule, port C when the schedule is empty (log entry 7). -/
def nextMove (s : State) : Move := s.sched.headD .portC

/-- The state with the schedule moved on. -/
def dropMove (s : State) : State := { s with sched := s.sched.tail }

/-- `fault(reason)` (R10, R36): the fault is recorded in `FAULTED`, on the state the faulting step found. -/
def recordFault (s : State) (o : Out) : Out :=
  match o with
  | .next t => .next t
  | .fault r => .next { s with faulted := some r }
  | .refused r => .refused r

/-- One step of the machine: the step of the agent that moves next. A fault is recorded; once `FAULTED` is set it is
never cleared and every step answers that fault (R36, R274). -/
def machineStep (s : State) : Out :=
  match s.faulted with
  | some r => .fault r
  | none => recordFault s (agentTurn (nextMove s) (dropMove s))

/-- Present the word `w` on the port where its opcode is legal (port C for an opcode of no row) and let that port move
next. On port C a command is accepted only when `SEQ = Idle` (R30), so `SEQ` is made idle. -/
def presentWord (w : Cmd) (s : State) : State :=
  match portOf (opField w) with
  | some .P => { s with cmdP := w :: s.cmdP, sched := .portP :: s.sched }
  | _ => { s with cmdC := w :: s.cmdC, sched := .portC :: s.sched, seq := .idle }

end Sys2Proof.Machine
end

