-- ==== Sys2Proof/Machine/Step.lean ====
section
/-! DEFINITION. One step of the machine, and how a program word is placed where it runs next. -/

namespace Sys2Proof.Machine

/-- One step (R70): the steps of all agents form one total order, which the schedule gives. -/
def step (s : State) : Host.Outcome State Fault Refusal := machineStep s

/-- `s` with the command whose bits are `w` (as spec/opcode_table.json numbers them) presented on its port, that port
moving next. A command is presented from outside the block, which fetches nothing (R76; log entry 10). -/
def State.withFetchWord (s : State) (nbits w : Nat) : State := presentWord (BitVec.ofNat 48 (w % 2 ^ nbits)) s

end Sys2Proof.Machine
end

