-- ==== Sys2Proof/Safety.lean ====
section
/-! DEFINITION. The terms claims are stated in: what the unread bytes of a ring are, runs of the machine, and the
invariant that holds in every state a run reaches. -/

namespace Sys2Proof.Machine

/-! ### Runs -/

/-- `k` steps of the machine, stopping at the first fault or refusal. -/
def run : Nat → State → Out
  | 0, s => .next s
  | k + 1, s =>
    match step s with
    | .next t => run k t
    | .fault r => .fault r
    | .refused r => .refused r

/-- `s` with the command `ins` in flight, its next step `st`, and the temporaries `h`, `v`, `n`, `c`. -/
def atStep (ins : Instr) (st : StepName) (h : Nat) (v : Byte) (n : Word) (c : ClkId) (s : State) : State :=
  { s with seq := .busy ⟨ins, st, h, v, n, c⟩ }

/-- The step that port C takes next, of which command: none when port C is idle or does not move. -/
def stepTaken (s : State) : Option (Instr × StepName) :=
  match nextMove s, s.seq with
  | .portC, .busy f => some (f.ins, f.step)
  | _, _ => none

/-- The command that port C accepts in this step: none when it does not move, is not idle, or has no word that decodes
to a command with operands in range. -/
def acceptedC (s : State) : Option Instr :=
  match nextMove s, s.seq, s.cmdC with
  | .portC, .idle, w :: _ =>
    match decode w with
    | .ok ins => if ins.port = .C ∧ ins.wellFormed s.cfg = true then some ins else none
    | .error _ => none
  | _, _, _ => none

/-- The command that port P serves in this step. -/
def servedP (s : State) : Option Instr :=
  match nextMove s, s.cmdP with
  | .portP, w :: _ =>
    match decode w with
    | .ok ins => if ins.port = .P ∧ intCtx s.pwr = true ∧ ins.wellFormed s.cfg = true then some ins else none
    | .error _ => none
  | _, _ => none

/-- No reset event is scheduled. -/
def noReset (ms : List Move) : Bool := ms.all fun m => m != .powerOnReset && m != .standbyExitReset

/-- PowerOnReset is not scheduled. -/
def noPowerOn (ms : List Move) : Bool := ms.all fun m => m != .powerOnReset

/-! ### Rings -/

/-- The unread bytes of a ring, oldest first (R24 (d)). -/
def unread (cap : Nat) (r : Ring) : List Byte :=
  (List.range (availCount cap r.head r.tail)).map fun j => r.buf.read ((r.tail + j) % cap)

/-- The bytes that the words `ws` of port P insert into instance `i`, in order: those of its `RB_INSERT` words. -/
def insertedBytes (i : Byte) (ws : List Cmd) : List Byte :=
  ws.filterMap fun w =>
    match decode w with
    | .ok (.rbInsert j b) => if j = i then some b else none
    | _ => none

/-- Cursors in range (R24 (a)), storage in canonical form and inside the ring. -/
def Ring.ok (cap : Nat) (r : Ring) : Bool :=
  decide (r.head < cap) && decide (r.tail < cap) && r.buf.wf && r.buf.all fun cell => decide (cell.1 < cap)

/-- One ring per instance, each as `Ring.ok` says. -/
def ringsOk (s : State) : Bool :=
  decide (s.rings.length = s.cfg.nRb) && s.rings.all fun r => r.ok s.cfg.cap

/-! ### Clock ids (R42, R44) and comparator bits (R43, C7) -/

/-- A selectable configuration (R44). -/
def selectable (p : Params) (c : ClkId) : Bool := decide (c.toNat < p.nClk)

/-- The legal values of the three clock ids (R42). -/
def clkIdsOk (s : State) : Bool :=
  (selectable s.cfg s.clk.active || s.clk.active == clkLp || s.clk.active == clkResetDef) &&
    (selectable s.cfg s.clk.current || s.clk.current == clkNone) &&
    (selectable s.cfg s.clk.tickCfg || s.clk.tickCfg == clkNone)

/-- The six comparator bits. -/
def comparatorBits (r : Rtc) : List Bool := [r.alrEn, r.alrIe, r.alrF, r.wutEn, r.wutIe, r.wutF]

/-- With `RTC_SRC = 0` the six comparator bits are 0 (R43). -/
def rtcBitsOk (s : State) : Bool :=
  decide (s.rtc.src ≠ .none) || (comparatorBits s.rtc).all (· == false)

/-! ### Timed and standby commands -/

/-- A timed command with its bits `lp`, `deep` and its operands `u`, `d` (R162 to R165). -/
def timedOf : Instr → Option (Bool × Bool × TimeUnit × Word)
  | .pmSleep u d => some (false, false, u, d)
  | .pmLpSleep u d => some (true, false, u, d)
  | .pmStop u d => some (false, true, u, d)
  | .pmLpStop u d => some (true, true, u, d)
  | _ => none

/-- The command is a timed one, or `PM_STOP_IRQ`: the commands that run the Wake list. -/
def wakes (ins : Instr) : Bool := (timedOf ins).isSome || ins == .pmStopIrq

/-- `lp` of a command: 1 for the two low-power variants only. -/
def lpBit (ins : Instr) : Bool := (timedOf ins).any fun x => x.1

/-- `deep` of a command that enters a wait. -/
def deepBit (ins : Instr) : Bool := (timedOf ins).all fun x => x.2.1

/-- A standby command. -/
def isStandby : Instr → Bool
  | .pmStandby => true
  | .pmStandbySec _ => true
  | .pmStandbyPin _ => true
  | _ => false

/-- The step of the command is an `Arm` step (R213): S1, T1, E4 and W7 of the timed commands, B4 of
`PM_STANDBY_SEC`. -/
def armStep (ins : Instr) (st : StepName) : Bool :=
  match st with
  | .S1 => match ins with | .rtcArmSec _ => true | _ => false
  | .T1 => match ins with | .rtcArmMs _ => true | _ => false
  | .E4 | .W7 => (timedOf ins).isSome
  | .B4 => match ins with | .pmStandbySec _ => true | _ => false
  | _ => false

/-! ### Which steps a command has, and what holds at each -/

/-- `ClockDown` is the steps K1 to K4 of `ClockApply` (R243). -/
def KStep.inClockDown : KStep → Bool
  | .k1 => true
  | .k2 => true
  | .k3 => true
  | .k4 => true
  | .k5 => false
  | .k6 => false

/-- The "ready" flag that the hold of a step of `ClockApply` awaits (R242). -/
def KStep.awaits : KStep → ClkWait
  | .k1 => .none
  | .k2 => .osc
  | .k3 => .src
  | .k4 => .sw
  | .k5 => .none
  | .k6 => .none

/-- The command has the step (the step lists of R120 to R260). -/
def hasStep (ins : Instr) (st : StepName) : Bool :=
  match st with
  | .X1 => match ins with | .csrRead _ _ => true | _ => false
  | .M1 => ins == .millis
  | .A1 | .A2 => match ins with | .rbAvail _ => true | _ => false
  | .D1 | .D2 | .D3 | .D4 => match ins with | .rbRead _ => true | _ => false
  | .P1 | .P2 | .P3 => match ins with | .rbPeek _ => true | _ => false
  | .U1 | .U2 | .U3 | .U4 => match ins with | .rbRdUntil _ _ => true | _ => false
  | .Z1 => match ins with | .rbInit _ => true | _ => false
  | .E1 | .E2 | .E3 | .E4 | .E5 | .E6 | .E11 | .E12 | .W7 => (timedOf ins).isSome
  | .E7 | .E8 | .E9 => lpBit ins
  | .E10 k => lpBit ins && k.inClockDown
  | .Q1 | .Q2 | .Q3 | .Q4 | .Q5 | .Q6 => ins == .pmStopIrq
  | .W1 | .W2 | .W3 | .W4 _ | .W5 | .W6 => wakes ins
  | .B1 | .B2 | .B3 | .B5 | .B6 | .B7 | .B8 => isStandby ins
  | .B4 => isStandby ins && ins != .pmStandby
  | .I1 => match ins with | .rtcInit _ => true | _ => false
  | .S1 => match ins with | .rtcArmSec _ => true | _ => false
  | .T1 => match ins with | .rtcArmMs _ => true | _ => false
  | .G1 => match ins with | .bkpRead _ => true | _ => false
  | .H1 => match ins with | .bkpWrite _ _ => true | _ => false
  | .K _ => match ins with | .clkSelect _ => true | _ => false
  | .V1 => ins == .clkCurrent

/-- The steps between E1 or Q1 and W5: `GIE = 0` while one of them is next (R74, R161). -/
def masked : StepName → Bool
  | .E2 | .E3 | .E4 | .E5 | .E6 | .E7 | .E8 | .E9 | .E10 _ | .E11 | .E12 => true
  | .Q2 | .Q3 | .Q4 | .Q5 | .Q6 => true
  | .W1 | .W2 | .W3 | .W4 _ | .W5 => true
  | _ => false

/-- The steps between E2, Q2 or B1 and K5 of the replay: `TICKIE = 0` while one of them is next (R161, R168, R170). -/
def tickOff : StepName → Bool
  | .E3 | .E4 | .E5 | .E6 | .E7 | .E8 | .E9 | .E10 _ | .E11 | .E12 => true
  | .Q3 | .Q4 | .Q5 | .Q6 => true
  | .W1 | .W2 | .W3 => true
  | .W4 k => k != .k6
  | .B2 | .B3 | .B4 | .B5 | .B6 | .B7 | .B8 => true
  | _ => false

/-- `PSTATE` while the step is next (R160, R166): a wait only at E12, Q6 and B8. -/
def pstateAt (ins : Instr) : StepName → PState
  | .E12 => if deepBit ins then .stopWait else .sleepWait
  | .Q6 => .stopWait
  | .B8 => .standbyWait
  | _ => .active

/-- `LPREG` while the step is next: `lp` from E5 to W1 (R161, R168). -/
def lpregAt (ins : Instr) : StepName → Bool
  | .E6 | .E7 | .E8 | .E9 | .E10 _ | .E11 | .E12 | .W1 => lpBit ins
  | _ => false

/-- `REGLPF` may be 1 while the step is next: from the wait step of a low-power variant to W2 (R166, R168). -/
def reglpfMay (ins : Instr) : StepName → Bool
  | .E12 | .W1 | .W2 => lpBit ins
  | _ => false

/-- `PDDS` while the step is next: 1 from B5 on (R170). -/
def pddsAt : StepName → Bool
  | .B6 | .B7 | .B8 => true
  | _ => false

/-- `DEEP` where a wait step still to come reads it (R161, R169, R170). -/
def deepOk (ins : Instr) (deep : Bool) : StepName → Bool
  | .E7 | .E8 | .E9 | .E10 _ | .E11 => deep == deepBit ins
  | .Q5 | .B7 => deep
  | _ => true

/-- `WUPEN` while the step is next: the pin of `PM_STANDBY_PIN` from B4 on, else none (R171, R173). -/
def wupenAt (ins : Instr) (st : StepName) : BitVec 3 :=
  match ins, st with
  | .pmStandbyPin p, .B5 | .pmStandbyPin p, .B6 | .pmStandbyPin p, .B7 | .pmStandbyPin p, .B8 => enablePin p 0#3
  | _, _ => 0#3

/-- The "ready" flag that may be awaited while the step is next (R242). -/
def awaitedAt : StepName → ClkWait
  | .K k => k.awaits
  | .E10 k => k.awaits
  | .W4 k => k.awaits
  | _ => .none

/-- What holds in the replay once the step `k` of it is next: `c` is the recorded id, and each field already written has
that value. -/
def replayOkAt (c : Clk) (saved : ClkId) : KStep → Bool
  | .k1 => true
  | .k2 | .k3 | .k4 => saved == c.current
  | .k5 => saved == c.current && c.active == c.current
  | .k6 => saved == c.current && c.active == c.current && c.tickCfg == c.current

/-- The replay W4 works on `CLK_CURRENT`, which is a selectable id (R168 W4, R242), and once a field has been replayed
it has that value. -/
def replayOk (c : Clk) (cfg : Params) (f : Flight) : Bool :=
  match f.step with
  | .W4 k => (k == .k1 || selectable cfg c.current) && replayOkAt c f.c k
  | .W5 | .W6 | .W7 => selectable cfg c.current && c.active == c.current && c.tickCfg == c.current
  | _ => true

/-- Past E4 the RTC has been initialised, and past E3 `RTCIE = 1` (R161, R213). -/
def rtcReady (ins : Instr) (r : Rtc) (rtcie : Bool) (st : StepName) : Bool :=
  match st with
  | .E4 => rtcie
  | .E5 | .E6 | .E7 | .E8 | .E9 | .E10 _ | .E11 | .E12 | .W7 => rtcie && decide (r.src ≠ .none)
  | .W1 | .W2 | .W3 | .W4 _ | .W5 | .W6 => (ins == .pmStopIrq) || (rtcie && decide (r.src ≠ .none))
  | _ => true

/-- The power and clock fields between commands: nothing of a power command is left but `DEEP`, `RTCIE`, `PREFETCH`
and `FLASHPD` (R51, R168, R171). -/
structure Quiet (p : Pwr) (c : Clk) : Prop where
  pstate : p.pstate = .active
  gie : p.gie = true
  extpend : p.extpend = false
  lpreg : p.lpreg = false
  reglpf : p.reglpf = false
  pdds : p.pdds = false
  wupen : p.wupen = 0#3
  wait : c.wait = .none

/-- What holds of the power, clock and RTC fields while the command `f.ins` is in flight and its step `f.step` is
next. -/
structure InFlight (f : Flight) (cfg : Params) (p : Pwr) (c : Clk) (r : Rtc) : Prop where
  port : f.ins.port = .C
  operands : f.ins.wellFormed cfg = true
  step : hasStep f.ins f.step = true
  gie : p.gie = !masked f.step
  tick : tickOff f.step = true → p.tickie = false
  pstate : p.pstate = pstateAt f.ins f.step
  extpend : intCtx p = true → p.extpend = false
  lpreg : p.lpreg = lpregAt f.ins f.step
  reglpf : p.reglpf = true → reglpfMay f.ins f.step = true
  pdds : p.pdds = pddsAt f.step
  deep : deepOk f.ins p.deep f.step = true
  wupen : p.wupen = wupenAt f.ins f.step
  wait : c.wait = .none ∨ c.wait = awaitedAt f.step
  replay : replayOk c cfg f = true
  rtc : rtcReady f.ins r p.rtcie f.step = true

/-- The sequencer and the fields its steps drive agree. -/
def SeqOk (q : Seq) (cfg : Params) (p : Pwr) (c : Clk) (r : Rtc) : Prop :=
  match q with
  | .idle => Quiet p c
  | .busy f => InFlight f cfg p c r

/-- The invariant of the machine: it holds at reset and every step keeps it. -/
structure Inv (s : State) : Prop where
  cfg : s.cfg.Legal
  rings : ringsOk s = true
  clkIds : clkIdsOk s = true
  rtcBits : rtcBitsOk s = true
  seq : SeqOk s.seq s.cfg s.pwr s.clk s.rtc

/-! ### The bounded queue that a ring refines (R138 to R141) -/

/-- One whole command on a ring. -/
inductive RingOp where
  | insert (b : Byte)
  | read
  | peek
  | avail
  | init
  deriving DecidableEq, Repr

/-- The command of a ring operation on instance `i`. -/
def RingOp.ins (i : Byte) : RingOp → Instr
  | .insert b => .rbInsert i b
  | .read => .rbRead i
  | .peek => .rbPeek i
  | .avail => .rbAvail i
  | .init => .rbInit i

/-- The queue after an operation, and the value answered: at most `cap − 1` bytes, the newest dropped when full,
first in first out. -/
def queueStep (cap : Nat) (q : List Byte) : RingOp → List Byte × Word
  | .insert b => (if q.length < cap - 1 then q ++ [b] else q, 0#32)
  | .read => (q.tail, (q.head?.map (·.setWidth 32)).getD 0xFFFFFFFF#32)
  | .peek => (q, (q.head?.map (·.setWidth 32)).getD 0xFFFFFFFF#32)
  | .avail => (q, BitVec.ofNat 32 q.length)
  | .init => ([], 0#32)

/-- The queue after a list of operations, and the values answered, in order. -/
def queueRun (cap : Nat) (q : List Byte) : List RingOp → List Byte × List Word
  | [] => (q, [])
  | op :: ops =>
    let (q', w) := queueStep cap q op
    let (q'', ws) := queueRun cap q' ops
    (q'', w :: ws)

/-- Run a command from `SEQ = Idle` until `SEQ` is idle again, in at most `n` steps of its own. -/
def runCommand : Nat → Instr → State → Option State
  | 0, _, _ => none
  | n + 1, ins, s =>
    match exec ins s with
    | .next t => if t.seq = .idle then some t else runCommand n ins t
    | .fault _ => none
    | .refused _ => none

/-- The response that the port of `ins` drives. -/
def answered (ins : Instr) (s : State) : Option Rsp :=
  match ins.port with
  | .P => s.rspP
  | .C => s.rspC

/-- Run ring operations on instance `i` as whole commands, four steps at most each: the last state and the values
answered with status OK, in order. -/
def ringRun (i : Byte) : List RingOp → State → Option (State × List Word)
  | [], s => some (s, [])
  | op :: ops, s =>
    match runCommand 4 (op.ins i) s with
    | none => none
    | some t =>
      match answered (op.ins i) t, ringRun i ops t with
      | some ⟨.ok, w⟩, some (u, ws) => some (u, w :: ws)
      | _, _ => none

end Sys2Proof.Machine
end

