-- ==== Sys2Proof/Certificates/Slice0/Obligations.lean ====
section
/-! DEFINITION. The statements about the model, each `def Obligations.<Name> : Prop`. A statement about a step of a
command in flight places the command with `atStep`, so it covers every state; an equation `exec … = .next …` says the
result, the frame and that the step completes at once. -/

open Sys2Proof Sys2Proof.Machine

/-! ### Encoding (30_encoding.md) -/

/-- Decoding the word of any command gives the command back, every operand at every value (R90 to R98). -/
def Obligations.DecodeOfEncodeIsTheCommand : Prop :=
  ∀ ins : Instr, decode (encode ins) = .ok ins

/-- A word that decodes to a command is that command's word: no bit of a word is ignored (R90 to R98, R100 (b)). -/
def Obligations.EncodeOfDecodeIsTheWord : Prop :=
  ∀ (w : Cmd) (ins : Instr), decode w = .ok ins → encode ins = w

/-- A word selects a row of the table of R98 (`w AND mask = match`) iff it decodes to a command with that row's opcode
and port; the 23 rows are selected by disjoint sets of words, and no other opcode decodes. -/
def Obligations.TableRowsSelectWhatDecodes : Prop :=
  opcodeTable.length = 23 ∧
    (∀ r ∈ opcodeTable, ∀ w : Cmd,
      r.selects w = true ↔ ∃ ins, decode w = .ok ins ∧ ins.opcode = r.op ∧ ins.port = r.port) ∧
    (∀ r ∈ opcodeTable, ∀ r' ∈ opcodeTable, ∀ w : Cmd, r.selects w = true → r'.selects w = true → r = r') ∧
    (∀ w : Cmd, (∀ r ∈ opcodeTable, r.op ≠ opField w) → decode w = .error (.unknownOp (opField w)))

/-- Nine words that the spec writes out decode to the commands it names: the six examples of R103, `MILLIS` (R98, R120),
`PM_STANDBY_SEC 60` (R172) and `CLK_SELECT 2` (R240). -/
def Obligations.SpecWordsDecode : Prop :=
  decode 0x200000000041#48 = .ok (.rbInsert 0#8 0x41#8) ∧
    decode 0x220000000000#48 = .ok (.rbRead 0#8) ∧
    decode 0x320000000005#48 = .ok (.pmStop .seconds 5#32) ∧
    decode 0x3101000000FA#48 = .ok (.pmLpSleep .milliseconds 250#32) ∧
    decode 0x4402DEADBEEF#48 = .ok (.bkpWrite 2#8 0xDEADBEEF#32) ∧
    decode 0x011100000000#48 = .ok (.csrRead 0x11#8 0#8) ∧
    decode 0x100000000000#48 = .ok .millis ∧
    decode 0x36000000003C#48 = .ok (.pmStandbySec 60#32) ∧
    decode 0x500200000000#48 = .ok (.clkSelect 2#8)

/-! ### The ports (R99 to R102) and the step -/

/-- R99 to R102 on both ports. Port C with `SEQ = Idle`: an unknown opcode is answered ILLEGAL, `RB_INSERT` is refused, a
word with a zero bit set or an operand out of range is answered ILLEGAL with no other change, and a well-formed command
is executed. Port P when `IntCtx` holds: an unknown opcode and a port-C opcode are refused, and a reserved `RB_INSERT`
word is answered ILLEGAL. That a port-P word is held before its checks while `IntCtx` is false is log entry 16; that a
refusal ends the run is log entry 17. -/
def Obligations.PortsCheckAWordInOrder : Prop :=
  (∀ (s : State) (w : Cmd) (rest : List Cmd), s.faulted = none → nextMove s = .portC → s.seq = .idle →
    s.cmdC = w :: rest →
    ((∀ r ∈ opcodeTable, r.op ≠ opField w) →
      step s = .next { dropMove s with cmdC := rest, seq := .idle, rspC := some ⟨.illegal, 0#32⟩ }) ∧
    (opField w = 0x20#8 → step s = .refused (.wrongPort 0x20#8)) ∧
    ((∃ r ∈ opcodeTable, r.op = opField w ∧ r.port = .C ∧ r.selects w = false) →
      step s = .next { dropMove s with cmdC := rest, seq := .idle, rspC := some ⟨.illegal, 0#32⟩ }) ∧
    (∀ ins, decode w = .ok ins → ins.port = .C → ins.wellFormed s.cfg = false →
      step s = .next { dropMove s with cmdC := rest, seq := .idle, rspC := some ⟨.illegal, 0#32⟩ }) ∧
    (∀ ins, decode w = .ok ins → ins.port = .C → ins.wellFormed s.cfg = true →
      step s = recordFault s (exec ins { dropMove s with cmdC := rest }))) ∧
  (∀ (s : State) (w : Cmd) (rest : List Cmd), s.faulted = none → nextMove s = .portP → intCtx s.pwr = true →
    s.cmdP = w :: rest →
    ((∀ r ∈ opcodeTable, r.op ≠ opField w) → step s = .refused (.unknownOnPortP (opField w))) ∧
    ((∃ r ∈ opcodeTable, r.op = opField w ∧ r.port = .C) → step s = .refused (.wrongPort (opField w))) ∧
    (opField w = 0x20#8 → (∀ i b, decode w ≠ .ok (.rbInsert i b)) →
      step s = .next { dropMove s with cmdP := rest, rspP := some ⟨.illegal, 0#32⟩ }) ∧
    (∀ i b, decode w = .ok (.rbInsert i b) → s.cfg.nRb ≤ i.toNat →
      step s = .next { dropMove s with cmdP := rest, rspP := some ⟨.illegal, 0#32⟩ }) ∧
    (∀ i b, decode w = .ok (.rbInsert i b) → i.toNat < s.cfg.nRb →
      step s = recordFault s (exec (.rbInsert i b) { dropMove s with cmdP := rest })))

/-- A step of port C with a command in flight runs that command's next step; a step after `withFetchWord` runs exactly
the command placed, on its port (a command of port P is held while `IntCtx` is false, with the word kept).
How a command is presented is the model's choice (log entry 10). -/
def Obligations.StepRunsTheCommandPlaced : Prop :=
  (∀ (s : State) (f : Flight), s.faulted = none → nextMove s = .portC → s.seq = .busy f →
    step s = recordFault s (exec f.ins (dropMove s))) ∧
  (∀ (s : State) (ins : Instr), s.faulted = none → ins.port = .C →
    step (s.withFetchWord 48 (encode ins).toNat) =
      recordFault (s.withFetchWord 48 (encode ins).toNat) (exec ins { s with seq := .idle })) ∧
  (∀ (s : State) (ins : Instr), s.faulted = none → ins.port = .P →
    step (s.withFetchWord 48 (encode ins).toNat) =
      if intCtx s.pwr then recordFault (s.withFetchWord 48 (encode ins).toNat) (exec ins s)
      else .next { s with cmdP := encode ins :: s.cmdP })

/-- A step of an agent other than the two ports is that agent's event, and a port with nothing to do leaves all but the
schedule. The schedule, and the step that changes nothing, are the model's choices (log entries 7 and 8). -/
def Obligations.StepRunsTheScheduledEvent : Prop :=
  ∀ s : State, s.faulted = none →
    (nextMove s = .evTick → step s = .next (evTick (dropMove s))) ∧
    (nextMove s = .evRtcMs → step s = .next (evRtcMs (dropMove s))) ∧
    (nextMove s = .evRegRdy → step s = .next (evRegRdy (dropMove s))) ∧
    (nextMove s = .evClkRdy → step s = .next (evClkRdy (dropMove s))) ∧
    (∀ p, nextMove s = .evWkup p → step s = .next (evWkup p (dropMove s))) ∧
    (nextMove s = .evExtIrq → step s = .next (evExtIrq (dropMove s))) ∧
    (nextMove s = .powerOnReset → step s = .next (powerOnReset (dropMove s))) ∧
    (nextMove s = .standbyExitReset → step s = .next (evStandbyExit (dropMove s))) ∧
    (nextMove s = .portC → s.seq = .idle → s.cmdC = [] → step s = .next (dropMove s)) ∧
    (nextMove s = .portP → s.cmdP = [] → step s = .next (dropMove s))

/-- R36: a recorded fault is never cleared. Every step of a faulted state answers the fault, and a step that sets
`FAULTED` changes nothing else and comes from a fault of the agent that moved. The form of the record is the model's
choice (log entry 11). -/
def Obligations.FaultedIsNeverCleared : Prop :=
  (∀ (s : State) (r : Fault), s.faulted = some r → step s = .fault r) ∧
  (∀ s t : State, step s = .next t → t.faulted ≠ s.faulted →
    ∃ r, agentTurn (nextMove s) (dropMove s) = .fault r ∧ t = { s with faulted := some r })

/-! ### Tick Counter (40_tick_counter.md) -/

/-- R120, R241: `MILLIS` answers `(OK, TICK)` and `CLK_CURRENT` answers `(OK, zext_32(CLK_CURRENT))`, each in one step
that changes nothing but the response. -/
def Obligations.MillisAndClockCurrentAnswerARegister : Prop :=
  ∀ s : State, s.seq = .idle →
    exec .millis s = .next { s with seq := .idle, rspC := some ⟨.ok, s.tick⟩ } ∧
    exec .clkCurrent s = .next { s with seq := .idle, rspC := some ⟨.ok, s.clk.current.setWidth 32⟩ }

/-- R121: EV_TICK adds 1 to `TICK` modulo 2^32 iff `GIE = 1 ∧ TICKIE = 1 ∧ PSTATE = Active`, and changes nothing else;
when it is not enabled it leaves the state (log entry 8). -/
def Obligations.TickEventCountsOne : Prop :=
  ∀ s : State,
    evTick s =
      if s.pwr.gie = true ∧ s.pwr.tickie = true ∧ s.pwr.pstate = .active then
        { s with tick := BitVec.ofNat 32 ((s.tick.toNat + 1) % 2 ^ 32) }
      else s

/-- R123: no command writes `TICK`; only EV_TICK and the resets do. -/
def Obligations.OnlyTheTickInterruptAndResetsWriteTick : Prop :=
  ∀ s t : State, step s = .next t → t.tick ≠ s.tick →
    (nextMove s = .evTick ∧ intCtx s.pwr = true ∧ s.pwr.tickie = true ∧ t.tick = s.tick + 1#32) ∨
      ((nextMove s = .powerOnReset ∨ nextMove s = .standbyExitReset) ∧ t.tick = 0#32)

/-- R120, R122: after `k` enabled tick interrupts the difference of two `MILLIS` answers is `k` modulo 2^32. -/
def Obligations.TickDifferenceCountsTheInterrupts : Prop :=
  ∀ (s : State) (k : Nat), intCtx s.pwr = true → s.pwr.tickie = true →
    ((Nat.iterate evTick k s).tick - s.tick).toNat = k % 2 ^ 32 ∧
      { Nat.iterate evTick k s with tick := s.tick } = s

/-! ### Ring Buffer (41_ring_buffer.md) -/

/-- R137: the arithmetic of the ring. -/
def Obligations.RingArithmetic : Prop :=
  (∀ cap c, c < cap → advance cap c = if c < cap - 1 then c + 1 else 0) ∧
  (∀ cap h t, h < cap → t < cap →
    availCount cap h t = (if t ≤ h then h - t else cap + h - t) ∧ availCount cap h t ≤ cap - 1 ∧
      (h = t ↔ availCount cap h t = 0) ∧ ((h + 1) % cap = t ↔ availCount cap h t = cap - 1))

/-- R131: `RB_INSERT` on an existing instance when `IntCtx` holds: the byte is stored at `HEAD` and `HEAD` advances, or,
in a full ring, nothing is written; the answer is `(OK, 0)` either way. While `IntCtx` is false it is held, in
the model a step that changes nothing (log entry 8). -/
def Obligations.InsertStoresOrDrops : Prop :=
  ∀ (s : State) (i b : Byte), i.toNat < s.cfg.nRb →
    (intCtx s.pwr = true → (((ringAt i.toNat s).head + 1) % s.cfg.cap ≠ (ringAt i.toNat s).tail) →
      exec (.rbInsert i b) s =
        .next { s with
          rings := s.rings.set i.toNat
            ⟨((ringAt i.toNat s).head + 1) % s.cfg.cap, (ringAt i.toNat s).tail,
              (ringAt i.toNat s).buf.write (ringAt i.toNat s).head b⟩
          rspP := some ⟨.ok, 0#32⟩ }) ∧
    (intCtx s.pwr = true → (((ringAt i.toNat s).head + 1) % s.cfg.cap = (ringAt i.toNat s).tail) →
      exec (.rbInsert i b) s = .next { s with rspP := some ⟨.ok, 0#32⟩ }) ∧
    (intCtx s.pwr = false → exec (.rbInsert i b) s = .next s)

/-- R61, R131: which byte `RB_INSERT` stores to. In a ring that is not full, slot `HEAD` of the instance reads as the
byte inserted, and every other slot of every instance reads as before; in a full one every slot reads as before. -/
def Obligations.InsertWritesOneByte : Prop :=
  ∀ (s t : State) (i b : Byte), ringsOk s = true → i.toNat < s.cfg.nRb → intCtx s.pwr = true →
    exec (.rbInsert i b) s = .next t →
    ((((ringAt i.toNat s).head + 1) % s.cfg.cap ≠ (ringAt i.toNat s).tail →
        bufRead i.toNat (ringAt i.toNat s).head t = b ∧
          ∀ j k, (j, k) ≠ (i.toNat, (ringAt i.toNat s).head) → bufRead j k t = bufRead j k s) ∧
      (((ringAt i.toNat s).head + 1) % s.cfg.cap = (ringAt i.toNat s).tail →
        ∀ j k, bufRead j k t = bufRead j k s))

/-- R132: `RB_AVAIL`, step by step: `HEAD` is read first, the count answered from it; no state is written. -/
def Obligations.AvailStepByStep : Prop :=
  ∀ (s : State) (i : Byte) (h : Nat) (v : Byte) (n : Word) (c : ClkId), i.toNat < s.cfg.nRb →
    (s.seq = .idle →
      exec (.rbAvail i) s =
        .next (atStep (.rbAvail i) .A2 (ringAt i.toNat s).head 0#8 0#32 0#8 { s with rspC := none })) ∧
    exec (.rbAvail i) (atStep (.rbAvail i) .A2 h v n c s) =
      .next { s with
        seq := .idle
        rspC := some ⟨.ok, BitVec.ofNat 32 ((s.cfg.cap + h - (ringAt i.toNat s).tail) % s.cfg.cap)⟩ }

/-- R133: `RB_READ`, step by step: the snapshot of `HEAD`; the sentinel on empty, `TAIL` unchanged; else the byte at
`TAIL` and `TAIL` advanced, `HEAD` and `buf` unchanged. -/
def Obligations.ReadStepByStep : Prop :=
  ∀ (s : State) (i : Byte) (h : Nat) (v : Byte) (n : Word) (c : ClkId), i.toNat < s.cfg.nRb →
    (s.seq = .idle →
      exec (.rbRead i) s =
        .next (atStep (.rbRead i) .D2 (ringAt i.toNat s).head 0#8 0#32 0#8 { s with rspC := none })) ∧
    (h = (ringAt i.toNat s).tail →
      exec (.rbRead i) (atStep (.rbRead i) .D2 h v n c s) =
        .next { s with seq := .idle, rspC := some ⟨.ok, 0xFFFFFFFF#32⟩ }) ∧
    (h ≠ (ringAt i.toNat s).tail →
      exec (.rbRead i) (atStep (.rbRead i) .D2 h v n c s) = .next (atStep (.rbRead i) .D3 h v n c s)) ∧
    exec (.rbRead i) (atStep (.rbRead i) .D3 h v n c s) =
      .next (atStep (.rbRead i) .D4 h ((ringAt i.toNat s).buf.read (ringAt i.toNat s).tail) n c s) ∧
    exec (.rbRead i) (atStep (.rbRead i) .D4 h v n c s) =
      .next { s with
        rings := s.rings.set i.toNat
          ⟨(ringAt i.toNat s).head, ((ringAt i.toNat s).tail + 1) % s.cfg.cap, (ringAt i.toNat s).buf⟩
        seq := .idle
        rspC := some ⟨.ok, v.setWidth 32⟩ }

/-- R134: `RB_PEEK`, step by step: as `RB_READ` but `TAIL` does not advance; no state is written. -/
def Obligations.PeekStepByStep : Prop :=
  ∀ (s : State) (i : Byte) (h : Nat) (v : Byte) (n : Word) (c : ClkId), i.toNat < s.cfg.nRb →
    (s.seq = .idle →
      exec (.rbPeek i) s =
        .next (atStep (.rbPeek i) .P2 (ringAt i.toNat s).head 0#8 0#32 0#8 { s with rspC := none })) ∧
    (h = (ringAt i.toNat s).tail →
      exec (.rbPeek i) (atStep (.rbPeek i) .P2 h v n c s) =
        .next { s with seq := .idle, rspC := some ⟨.ok, 0xFFFFFFFF#32⟩ }) ∧
    (h ≠ (ringAt i.toNat s).tail →
      exec (.rbPeek i) (atStep (.rbPeek i) .P2 h v n c s) = .next (atStep (.rbPeek i) .P3 h v n c s)) ∧
    exec (.rbPeek i) (atStep (.rbPeek i) .P3 h v n c s) =
      .next { s with
        seq := .idle
        rspC := some ⟨.ok, ((ringAt i.toNat s).buf.read (ringAt i.toNat s).tail).setWidth 32⟩ }

/-- R135: `RB_RDUNTIL`, step by step: the hold on an empty ring, the byte taken, the terminator answered with the count
and not emitted, any other byte emitted on `ACC` and counted modulo 2^32. -/
def Obligations.ReadUntilStepByStep : Prop :=
  ∀ (s : State) (i t : Byte) (h : Nat) (v : Byte) (n : Word) (c : ClkId), i.toNat < s.cfg.nRb →
    (s.seq = .idle →
      exec (.rbRdUntil i t) s = .next (atStep (.rbRdUntil i t) .U2 0 0#8 0#32 0#8 { s with rspC := none })) ∧
    ((ringAt i.toNat s).head = (ringAt i.toNat s).tail →
      exec (.rbRdUntil i t) (atStep (.rbRdUntil i t) .U2 h v n c s) =
        .next (atStep (.rbRdUntil i t) .U2 h v n c s)) ∧
    ((ringAt i.toNat s).head ≠ (ringAt i.toNat s).tail →
      exec (.rbRdUntil i t) (atStep (.rbRdUntil i t) .U2 h v n c s) =
        .next (atStep (.rbRdUntil i t) .U3 h v n c s)) ∧
    exec (.rbRdUntil i t) (atStep (.rbRdUntil i t) .U3 h v n c s) =
      .next (atStep (.rbRdUntil i t) .U4 h ((ringAt i.toNat s).buf.read (ringAt i.toNat s).tail) n c
        { s with
          rings := s.rings.set i.toNat
            ⟨(ringAt i.toNat s).head, ((ringAt i.toNat s).tail + 1) % s.cfg.cap, (ringAt i.toNat s).buf⟩ }) ∧
    (v = t →
      exec (.rbRdUntil i t) (atStep (.rbRdUntil i t) .U4 h v n c s) =
        .next { s with seq := .idle, rspC := some ⟨.ok, n⟩ }) ∧
    (v ≠ t →
      exec (.rbRdUntil i t) (atStep (.rbRdUntil i t) .U4 h v n c s) =
        .next (atStep (.rbRdUntil i t) .U2 h v (n + 1#32) c { s with acc := s.acc ++ [(i, v)] }))

/-- R136: `RB_INIT` sets `HEAD = TAIL = 0` of its instance in one step; `buf` is not cleared. -/
def Obligations.InitEmptiesTheRing : Prop :=
  ∀ (s : State) (i : Byte), i.toNat < s.cfg.nRb → s.seq = .idle →
    exec (.rbInit i) s =
      .next { s with
        rings := s.rings.set i.toNat ⟨0, 0, (ringAt i.toNat s).buf⟩
        seq := .idle
        rspC := some ⟨.ok, 0#32⟩ }

/-- R131, R139, R141: on the unread bytes, `RB_INSERT` appends the byte at the end, or drops it when `CAP − 1` bytes are
unread; no unread byte of this or another instance is touched. -/
def Obligations.InsertAppendsToTheUnreadBytes : Prop :=
  ∀ (s t : State) (i b : Byte), Inv s → i.toNat < s.cfg.nRb → intCtx s.pwr = true →
    exec (.rbInsert i b) s = .next t →
    unread s.cfg.cap (ringAt i.toNat t) =
        (if (unread s.cfg.cap (ringAt i.toNat s)).length < s.cfg.cap - 1 then
          unread s.cfg.cap (ringAt i.toNat s) ++ [b]
        else unread s.cfg.cap (ringAt i.toNat s)) ∧
      ∀ j, j ≠ i.toNat → ringAt j t = ringAt j s

/-- R135, R138 to R141. From any state between commands, every list of whole ring commands on one instance completes, and
the ring's unread bytes and all its answers are those of a first-in first-out queue of at most `CAP − 1` bytes that
drops the newest byte when it is full. A whole `RB_RDUNTIL i, x` with the terminator among the unread bytes completes: the
bytes before the terminator are on `ACC` in order, their number is the answer, the terminator is gone and the bytes after
it are still unread. Whatever steps of other agents fall between its steps (no reset), once `RB_RDUNTIL` has responded,
the bytes it put on `ACC`, the terminator, and the bytes unread then are the bytes unread at its start followed by bytes
inserted since: the inserted bytes all, if they fit, and else some of them in order. -/
def Obligations.RingRefinesTheBoundedQueue : Prop :=
  (∀ (s : State) (i : Byte) (ops : List RingOp), Inv s → s.seq = .idle → i.toNat < s.cfg.nRb →
    ∃ t, ringRun i ops s = some (t, (queueRun s.cfg.cap (unread s.cfg.cap (ringAt i.toNat s)) ops).2) ∧
      unread s.cfg.cap (ringAt i.toNat t) = (queueRun s.cfg.cap (unread s.cfg.cap (ringAt i.toNat s)) ops).1 ∧
      t.seq = .idle ∧ ∀ j, j ≠ i.toNat → ringAt j t = ringAt j s) ∧
  (∀ (s : State) (i x : Byte) (pre post : List Byte), Inv s → s.seq = .idle → i.toNat < s.cfg.nRb →
    unread s.cfg.cap (ringAt i.toNat s) = pre ++ x :: post → x ∉ pre →
    ∃ t, runCommand (3 * (pre.length + 1) + 1) (.rbRdUntil i x) s = some t ∧
      t.acc = s.acc ++ pre.map (fun b => (i, b)) ∧ t.rspC = some ⟨.ok, BitVec.ofNat 32 pre.length⟩ ∧
      unread s.cfg.cap (ringAt i.toNat t) = post ∧ t.seq = .idle ∧ ∀ j, j ≠ i.toNat → ringAt j t = ringAt j s) ∧
  (∀ (s s₁ t : State) (i x : Byte) (k : Nat), Inv s → s.seq = .idle → s.cmdC = [] → s.faulted = none →
    noReset s.sched = true → i.toNat < s.cfg.nRb →
    exec (.rbRdUntil i x) s = .next s₁ → run k s₁ = .next t → t.seq = .idle →
    ∃ out served more, t.acc = s.acc ++ out.map (fun b => (i, b)) ∧ x ∉ out ∧
      t.rspC = some ⟨.ok, BitVec.ofNat 32 out.length⟩ ∧
      out ++ x :: unread s.cfg.cap (ringAt i.toNat t) = unread s.cfg.cap (ringAt i.toNat s) ++ more ∧
      s.cmdP = served ++ t.cmdP ∧ more.Sublist (insertedBytes i served) ∧
      ((unread s.cfg.cap (ringAt i.toNat s)).length + (insertedBytes i served).length ≤ s.cfg.cap - 1 →
        more = insertedBytes i served))

/-- R142 for `RB_READ`: whatever steps of other agents fall between its steps (no reset), once it has responded its
answer is that of a read made in one step at D1, and the bytes unread then are those left by that read followed by bytes
inserted since: `served` are the words that port P has served, `more` the bytes of their inserts that were stored, in
order, all of them if they fit in the ring. -/
def Obligations.ReadActsAtItsFirstStep : Prop :=
  ∀ (s s₁ t : State) (i : Byte) (k : Nat), Inv s → s.seq = .idle → s.cmdC = [] → s.faulted = none →
    noReset s.sched = true → i.toNat < s.cfg.nRb →
    exec (.rbRead i) s = .next s₁ → run k s₁ = .next t → t.seq = .idle →
    t.rspC = some ⟨.ok, ((unread s.cfg.cap (ringAt i.toNat s)).head?.map (·.setWidth 32)).getD 0xFFFFFFFF#32⟩ ∧
      ∃ served more, unread s.cfg.cap (ringAt i.toNat t) = (unread s.cfg.cap (ringAt i.toNat s)).tail ++ more ∧
        s.cmdP = served ++ t.cmdP ∧ more.Sublist (insertedBytes i served) ∧
        ((unread s.cfg.cap (ringAt i.toNat s)).length + (insertedBytes i served).length ≤ s.cfg.cap - 1 →
          more = insertedBytes i served)

/-- R132, R340: `RB_AVAIL` answers the number of bytes unread at A1, and when it answers at least that many are unread,
whatever steps of other agents (no reset) fall between. -/
def Obligations.AvailIsALowerBound : Prop :=
  ∀ (s s₁ t : State) (i : Byte) (k : Nat), Inv s → s.seq = .idle → s.cmdC = [] → s.faulted = none →
    noReset s.sched = true → i.toNat < s.cfg.nRb →
    exec (.rbAvail i) s = .next s₁ → run k s₁ = .next t → t.seq = .idle →
    t.rspC = some ⟨.ok, BitVec.ofNat 32 (unread s.cfg.cap (ringAt i.toNat s)).length⟩ ∧
      (unread s.cfg.cap (ringAt i.toNat s)).length ≤ (unread s.cfg.cap (ringAt i.toNat t)).length

/-- R52, R73: who writes a ring. `HEAD` and `buf` of an instance change only when port P serves an `RB_INSERT` of that
instance, when port C runs `RB_INIT` of it, or by a reset; `TAIL` only by step D4 of an `RB_READ`, step U3 of an
`RB_RDUNTIL` or an `RB_INIT` of that instance, or a reset. -/
def Obligations.RingWritersAreTheOwners : Prop :=
  ∀ (s t : State) (j : Nat), Inv s → step s = .next t →
    ((ringAt j t).head ≠ (ringAt j s).head ∨ (ringAt j t).buf ≠ (ringAt j s).buf →
      (∃ i b, i.toNat = j ∧ servedP s = some (.rbInsert i b)) ∨
        (∃ i, i.toNat = j ∧ (acceptedC s = some (.rbInit i) ∨ stepTaken s = some (.rbInit i, .Z1))) ∨
        nextMove s = .powerOnReset ∨ nextMove s = .standbyExitReset) ∧
    ((ringAt j t).tail ≠ (ringAt j s).tail →
      (∃ i, i.toNat = j ∧ stepTaken s = some (.rbRead i, .D4)) ∨
        (∃ i b, i.toNat = j ∧ stepTaken s = some (.rbRdUntil i b, .U3)) ∨
        (∃ i, i.toNat = j ∧ (acceptedC s = some (.rbInit i) ∨ stepTaken s = some (.rbInit i, .Z1))) ∨
        nextMove s = .powerOnReset ∨ nextMove s = .standbyExitReset)

/-! ### RTC Wake Engine and backup registers (43_rtc_wake.md) -/

/-- R213: `Arm(u, d)`: the fault on an RTC that is not initialised; else the comparator of the unit, disarmed by
duration 0 and armed otherwise, with the seconds scaled in 64 bits, and nothing else touched. -/
def Obligations.ArmWritesOneComparator : Prop :=
  ∀ (s : State) (d : Word),
    (s.rtc.src = .none → ∀ u, arm u d s = .faults .rtcNotInitialised) ∧
    (s.rtc.src ≠ .none → d = 0#32 →
      arm .seconds d s = .done { s with rtc := { s.rtc with alrEn := false, alrIe := false, alrF := false } } ∧
      arm .milliseconds d s = .done { s with rtc := { s.rtc with wutEn := false, wutIe := false, wutF := false } }) ∧
    (s.rtc.src ≠ .none → d ≠ 0#32 →
      arm .seconds d s = .done { s with rtc := { s.rtc with
        alrTgt := BitVec.ofNat 64 (s.rtc.cnt.toNat + 1000 * d.toNat), alrF := false, alrEn := true, alrIe := true } } ∧
      arm .milliseconds d s = .done { s with rtc := { s.rtc with
        wutPeriod := d, wutNext := BitVec.ofNat 64 (s.rtc.cnt.toNat + d.toNat), wutF := false, wutEn := true,
        wutIe := true } })

/-- R210, R211, R212: `RTC_INIT` sets `RTC_SRC` and nothing else; `RTC_ARM_SEC` and `RTC_ARM_MS` are one `Arm` step with
the answer `(OK, 0)`. -/
def Obligations.RtcCommandsInOneStep : Prop :=
  ∀ s : State, s.seq = .idle →
    exec (.rtcInit 1#8) s =
      .next { s with rtc := { s.rtc with src := .internal }, seq := .idle, rspC := some ⟨.ok, 0#32⟩ } ∧
    exec (.rtcInit 2#8) s =
      .next { s with rtc := { s.rtc with src := .external }, seq := .idle, rspC := some ⟨.ok, 0#32⟩ } ∧
    (∀ d, s.rtc.src ≠ .none →
      exec (.rtcArmSec d) s =
        .next { s with rtc := armRtc .seconds d s.rtc, seq := .idle, rspC := some ⟨.ok, 0#32⟩ } ∧
      exec (.rtcArmMs d) s =
        .next { s with rtc := armRtc .milliseconds d s.rtc, seq := .idle, rspC := some ⟨.ok, 0#32⟩ })

/-- R216, R217: `BKP_WRITE` replaces one backup register and nothing else; `BKP_READ` answers the register and changes
nothing; neither needs the RTC to be initialised. -/
def Obligations.BackupRegistersReadAndWrite : Prop :=
  ∀ (s : State) (k : Byte) (w : Word) (hk : k.toNat < 5), s.seq = .idle →
    exec (.bkpRead k) s = .next { s with seq := .idle, rspC := some ⟨.ok, s.rtc.bkp[k.toNat]⟩ } ∧
    exec (.bkpWrite k w) s =
      .next { s with
        rtc := { s.rtc with bkp := s.rtc.bkp.set k.toNat w }, seq := .idle, rspC := some ⟨.ok, 0#32⟩ }

/-- R272: the model faults, exactly, and where. With `RTC_SRC = 0` every `Arm` step faults `RtcNotInitialised`; with
`CLK_CURRENT = CLK_NONE` the first step of W4 faults `NoClockRecorded`; and a meaning faults nowhere else: the first only
when it accepts an `RTC_ARM_SEC` or `RTC_ARM_MS` or at an `Arm` step, the second only at the first step of W4. -/
def Obligations.FaultsAreTheTwoOfTheList : Prop :=
  (∀ (s : State) (h : Nat) (v : Byte) (n : Word) (c : ClkId), s.rtc.src = .none →
    (s.seq = .idle → ∀ d, exec (.rtcArmSec d) s = .fault .rtcNotInitialised ∧
      exec (.rtcArmMs d) s = .fault .rtcNotInitialised) ∧
    (∀ d, exec (.rtcArmSec d) (atStep (.rtcArmSec d) .S1 h v n c s) = .fault .rtcNotInitialised ∧
      exec (.rtcArmMs d) (atStep (.rtcArmMs d) .T1 h v n c s) = .fault .rtcNotInitialised) ∧
    (∀ ins, (timedOf ins).isSome = true →
      exec ins (atStep ins .E4 h v n c s) = .fault .rtcNotInitialised ∧
        exec ins (atStep ins .W7 h v n c s) = .fault .rtcNotInitialised) ∧
    (∀ d, exec (.pmStandbySec d) (atStep (.pmStandbySec d) .B4 h v n c s) = .fault .rtcNotInitialised)) ∧
  (∀ (s : State) (h : Nat) (v : Byte) (n : Word) (c : ClkId) (ins : Instr), wakes ins = true →
    s.clk.current = clkNone → exec ins (atStep ins (.W4 .k1) h v n c s) = .fault .noClockRecorded) ∧
  (∀ (s : State) (ins : Instr) (r : Fault), Inv s → (s.seq = .idle ∨ ∃ f, s.seq = .busy f ∧ f.ins = ins) →
    exec ins s = .fault r →
    (r = .rtcNotInitialised ∧ s.rtc.src = .none ∧
      ((s.seq = .idle ∧ ∃ d, ins = .rtcArmSec d ∨ ins = .rtcArmMs d) ∨
        ∃ f, s.seq = .busy f ∧ f.ins = ins ∧ armStep ins f.step = true)) ∨
      (r = .noClockRecorded ∧ s.clk.current = clkNone ∧ wakes ins = true ∧
        ∃ f, s.seq = .busy f ∧ f.ins = ins ∧ f.step = .W4 .k1))

/-- R214: one EV_RTCMS, field by field, when the source oscillates (`RTC_SRC ≠ 0 ∧ RTC_SRC_PRESENT(RTC_SRC)`, written
out); otherwise it has no step, and leaves the state (log entry 8). It changes nothing outside `RTCNT`, the two flags and
`WUT_NEXT`, in every `PSTATE`. -/
def Obligations.RtcMillisecond : Prop :=
  ∀ s : State,
    (rtcRunning s = true ↔
      (s.rtc.src = .internal ∧ s.cfg.rtcSrc1Present = true) ∨
        (s.rtc.src = .external ∧ s.cfg.rtcSrc2Present = true)) ∧
    ((s.rtc.src = .internal ∧ s.cfg.rtcSrc1Present = true) ∨
        (s.rtc.src = .external ∧ s.cfg.rtcSrc2Present = true) →
      evRtcMs s = { s with rtc := { s.rtc with
        cnt := s.rtc.cnt + 1#64
        alrF := s.rtc.alrF || (s.rtc.alrEn && decide (s.rtc.cnt + 1#64 = s.rtc.alrTgt))
        wutF := s.rtc.wutF || (s.rtc.wutEn && decide (s.rtc.cnt + 1#64 = s.rtc.wutNext))
        wutNext := if s.rtc.wutEn = true ∧ s.rtc.cnt + 1#64 = s.rtc.wutNext then
          s.rtc.cnt + 1#64 + s.rtc.wutPeriod.setWidth 64 else s.rtc.wutNext } }) ∧
    (¬ ((s.rtc.src = .internal ∧ s.cfg.rtcSrc1Present = true) ∨
        (s.rtc.src = .external ∧ s.cfg.rtcSrc2Present = true)) → evRtcMs s = s)

/-- R214: an armed comparator's flag is set by exactly the `D`-th following EV_RTCMS, `D` the armed duration in
milliseconds, wherever the 64-bit counter wraps. -/
def Obligations.ArmedFlagIsSetByTheLastMillisecond : Prop :=
  ∀ (s : State) (d : Word) (n : Nat), rtcRunning s = true → d ≠ 0#32 →
    ((Nat.iterate evRtcMs n { s with rtc := armRtc .seconds d s.rtc }).rtc.alrF = decide (1000 * d.toNat ≤ n)) ∧
      ((Nat.iterate evRtcMs n { s with rtc := armRtc .milliseconds d s.rtc }).rtc.wutF = decide (d.toNat ≤ n))

/-- R215: after `Arm(u, 0)` the comparator's `EN`, `IE` and `F` stay 0 whatever number of milliseconds passes. -/
def Obligations.DisarmedComparatorStaysQuiet : Prop :=
  ∀ (s : State) (n : Nat),
    let a := (Nat.iterate evRtcMs n { s with rtc := armRtc .seconds 0#32 s.rtc }).rtc
    let b := (Nat.iterate evRtcMs n { s with rtc := armRtc .milliseconds 0#32 s.rtc }).rtc
    (a.alrEn = false ∧ a.alrIe = false ∧ a.alrF = false) ∧ (b.wutEn = false ∧ b.wutIe = false ∧ b.wutF = false)

/-- R33: `rtc_irq` is `(ALR_F ∧ ALR_IE) ∨ (WUT_F ∧ WUT_IE)`, and it is a level: once asserted it falls only by an arm or
disarm step, or by a reset (R311, R312). -/
def Obligations.RtcIrqIsALevel : Prop :=
  (∀ r : Rtc, rtcIrq r = true ↔ (r.alrF = true ∧ r.alrIe = true) ∨ (r.wutF = true ∧ r.wutIe = true)) ∧
  (∀ s t : State, step s = .next t → rtcIrq s.rtc = true → rtcIrq t.rtc = false →
    (∃ d, acceptedC s = some (.rtcArmSec d) ∨ acceptedC s = some (.rtcArmMs d)) ∨
      (∃ ins st, stepTaken s = some (ins, st) ∧ armStep ins st = true) ∨
      nextMove s = .powerOnReset ∨ nextMove s = .standbyExitReset)

/-! ### Clock Controller (44_clock_controller.md) -/

/-- R240, R242: `CLK_SELECT`, step by step: K1 to K6 with its three holds, and the answer with K6
(log entry 9). -/
def Obligations.ClockSelectStepByStep : Prop :=
  ∀ (s : State) (x : Byte) (h : Nat) (v : Byte) (n : Word) (c : ClkId), s.cfg.Legal → x.toNat < s.cfg.nClk →
    (s.seq = .idle →
      exec (.clkSelect x) s =
        .next (atStep (.clkSelect x) (.K .k2) 0 0#8 0#32 x
          { s with clk := { s.clk with wait := .osc }, rspC := none })) ∧
    (s.clk.wait ≠ .none → ∀ k, k = .k2 ∨ k = .k3 ∨ k = .k4 →
      exec (.clkSelect x) (atStep (.clkSelect x) (.K k) h v n c s) =
        .next (atStep (.clkSelect x) (.K k) h v n c s)) ∧
    (s.clk.wait = .none →
      exec (.clkSelect x) (atStep (.clkSelect x) (.K .k2) h v n c s) =
          .next (atStep (.clkSelect x) (.K .k3) h v n x { s with clk := { s.clk with wait := .src } }) ∧
        exec (.clkSelect x) (atStep (.clkSelect x) (.K .k3) h v n c s) =
          .next (atStep (.clkSelect x) (.K .k4) h v n x { s with clk := { s.clk with wait := .sw } }) ∧
        exec (.clkSelect x) (atStep (.clkSelect x) (.K .k4) h v n c s) =
          .next (atStep (.clkSelect x) (.K .k5) h v n x { s with clk := { s.clk with active := x } })) ∧
    exec (.clkSelect x) (atStep (.clkSelect x) (.K .k5) h v n c s) =
      .next (atStep (.clkSelect x) (.K .k6) h v n x
        { s with clk := { s.clk with tickCfg := x }, pwr := { s.pwr with tickie := true } }) ∧
    exec (.clkSelect x) (atStep (.clkSelect x) (.K .k6) h v n c s) =
      .next { s with clk := { s.clk with current := x }, seq := .idle, rspC := some ⟨.ok, 0#32⟩ }

/-- R240: with three EV_CLKRDY, `CLK_SELECT c` completes: `CLK_ACTIVE = TICK_CFG = CLK_CURRENT = c`, `TICKIE = 1`, the
answer `(OK, 0)`, and nothing else changed. -/
def Obligations.ClockSelectCompletes : Prop :=
  ∀ (s : State) (x : Byte), s.cfg.Legal → x.toNat < s.cfg.nClk → s.seq = .idle → s.faulted = none →
    run 9 { s with
        cmdC := [encode (.clkSelect x)]
        sched := [.portC, .evClkRdy, .portC, .evClkRdy, .portC, .evClkRdy, .portC, .portC, .portC] } =
      .next { s with
        cmdC := []
        sched := []
        clk := ⟨x, x, x, .none⟩
        pwr := { s.pwr with tickie := true }
        rspC := some ⟨.ok, 0#32⟩ }

/-- R244, R245: `ClockTreeReset` writes `CLK_ACTIVE` and `CLK_WAIT` alone; EV_CLKRDY clears `CLK_WAIT` and nothing
else. -/
def Obligations.ClockTreeResetAndReady : Prop :=
  ∀ s : State,
    clockTreeReset s = { s with clk := ⟨clkResetDef, s.clk.current, s.clk.tickCfg, .none⟩ } ∧
    evClkRdy s = { s with clk := ⟨s.clk.active, s.clk.current, s.clk.tickCfg, .none⟩ }

/-- R247, C1: the recorded configuration changes only by step K6 of a `CLK_SELECT`, to that command's operand, or by a
reset, to `CLK_NONE` (R311, R312). -/
def Obligations.OnlyClockSelectChangesTheRecord : Prop :=
  ∀ s t : State, Inv s → step s = .next t → t.clk.current ≠ s.clk.current →
    (∃ x, stepTaken s = some (.clkSelect x, .K .k6) ∧ t.clk.current = x) ∨
      ((nextMove s = .powerOnReset ∨ nextMove s = .standbyExitReset) ∧ t.clk.current = clkNone)

/-! ### Power Mode Controller (42_power_modes.md) -/

/-- R161 to R167: the entry list of the four timed commands, step by step, with `lp` and `deep` of each; E4 is the arm
step, E10 the four steps of the downclock, and the wait E12 ends iff
`(RTCIE ∧ rtc_irq) ∨ (TIMED_WAIT_EXT_WAKE ∧ EXTPEND)`. -/
def Obligations.TimedEntryStepByStep : Prop :=
  ∀ (ins : Instr) (lp deep : Bool) (u : TimeUnit) (d : Word), timedOf ins = some (lp, deep, u, d) →
  ∀ (s : State) (h : Nat) (v : Byte) (n : Word) (c : ClkId),
    (s.seq = .idle →
      exec ins s = .next (atStep ins .E2 0 0#8 0#32 0#8 { s with pwr := { s.pwr with gie := false }, rspC := none })) ∧
    exec ins (atStep ins .E2 h v n c s) =
      .next (atStep ins .E3 h v n c { s with pwr := { s.pwr with tickie := false } }) ∧
    exec ins (atStep ins .E3 h v n c s) =
      .next (atStep ins .E4 h v n c { s with pwr := { s.pwr with rtcie := true } }) ∧
    (s.rtc.src ≠ .none →
      exec ins (atStep ins .E4 h v n c s) =
        .next (atStep ins .E5 h v n c { s with rtc := armRtc u d s.rtc })) ∧
    exec ins (atStep ins .E5 h v n c s) =
      .next (atStep ins .E6 h v n c { s with pwr := { s.pwr with lpreg := lp } }) ∧
    exec ins (atStep ins .E6 h v n c s) =
      .next (atStep ins (if lp then .E7 else .E11) h v n c { s with pwr := { s.pwr with deep := deep } }) ∧
    exec ins (atStep ins .E7 h v n c s) =
      .next (atStep ins .E8 h v n c { s with pwr := { s.pwr with prefetch := false } }) ∧
    exec ins (atStep ins .E8 h v n c s) =
      .next (atStep ins .E9 h v n c { s with pwr := { s.pwr with flashpd := true } }) ∧
    exec ins (atStep ins .E9 h v n c s) =
      .next (atStep ins (.E10 .k1) h v n c { s with clk := { s.clk with active := clkResetDef, wait := .none } }) ∧
    exec ins (atStep ins (.E10 .k1) h v n c s) =
      .next (atStep ins (.E10 .k2) h v n clkLp { s with clk := { s.clk with wait := .osc } }) ∧
    (s.clk.wait ≠ .none → ∀ k, k = .k2 ∨ k = .k3 ∨ k = .k4 →
      exec ins (atStep ins (.E10 k) h v n c s) = .next (atStep ins (.E10 k) h v n c s)) ∧
    (s.clk.wait = .none →
      exec ins (atStep ins (.E10 .k2) h v n c s) =
          .next (atStep ins (.E10 .k3) h v n c { s with clk := { s.clk with wait := .src } }) ∧
        exec ins (atStep ins (.E10 .k3) h v n c s) =
          .next (atStep ins (.E10 .k4) h v n c { s with clk := { s.clk with wait := .sw } }) ∧
        exec ins (atStep ins (.E10 .k4) h v n c s) =
          .next (atStep ins .E11 h v n c { s with clk := { s.clk with active := clkLp } })) ∧
    exec ins (atStep ins .E11 h v n c s) =
      .next (atStep ins .E12 h v n c
        { s with pwr := { s.pwr with
          pstate := if s.pwr.deep then (if s.pwr.pdds then .standbyWait else .stopWait) else .sleepWait
          reglpf := s.pwr.lpreg || s.pwr.reglpf } }) ∧
    exec ins (atStep ins .E12 h v n c s) =
      .next (if (s.pwr.rtcie = true ∧ rtcIrq s.rtc = true) ∨ (s.cfg.timedWaitExtWake = true ∧ s.pwr.extpend = true)
        then atStep ins .W1 h v n c { s with pwr := { s.pwr with pstate := .active } }
        else atStep ins .E12 h v n c s)

/-- R168: the Wake list, step by step, of the four timed commands (W1 to W7, with the answer) and of `PM_STOP_IRQ` (W1
to W6, with the answer); the answer with the last step is log entry 9. -/
def Obligations.WakeListStepByStep : Prop :=
  ∀ (ins : Instr) (s : State) (h : Nat) (v : Byte) (n : Word) (c : ClkId), wakes ins = true →
    exec ins (atStep ins .W1 h v n c s) =
      .next (atStep ins .W2 h v n c { s with pwr := { s.pwr with lpreg := false } }) ∧
    exec ins (atStep ins .W2 h v n c s) =
      .next (if s.pwr.reglpf then atStep ins .W2 h v n c s else atStep ins .W3 h v n c s) ∧
    exec ins (atStep ins .W3 h v n c s) =
      .next (atStep ins (.W4 .k1) h v n c { s with clk := { s.clk with active := clkResetDef, wait := .none } }) ∧
    (s.clk.current ≠ clkNone →
      exec ins (atStep ins (.W4 .k1) h v n c s) =
        .next (atStep ins (.W4 .k2) h v n s.clk.current { s with clk := { s.clk with wait := .osc } })) ∧
    (s.clk.wait ≠ .none → ∀ k, k = .k2 ∨ k = .k3 ∨ k = .k4 →
      exec ins (atStep ins (.W4 k) h v n c s) = .next (atStep ins (.W4 k) h v n c s)) ∧
    (s.clk.wait = .none →
      exec ins (atStep ins (.W4 .k2) h v n c s) =
          .next (atStep ins (.W4 .k3) h v n c { s with clk := { s.clk with wait := .src } }) ∧
        exec ins (atStep ins (.W4 .k3) h v n c s) =
          .next (atStep ins (.W4 .k4) h v n c { s with clk := { s.clk with wait := .sw } }) ∧
        exec ins (atStep ins (.W4 .k4) h v n c s) =
          .next (atStep ins (.W4 .k5) h v n c { s with clk := { s.clk with active := c } })) ∧
    exec ins (atStep ins (.W4 .k5) h v n c s) =
      .next (atStep ins (.W4 .k6) h v n c
        { s with clk := { s.clk with tickCfg := c }, pwr := { s.pwr with tickie := true } }) ∧
    exec ins (atStep ins (.W4 .k6) h v n c s) =
      .next (atStep ins .W5 h v n c { s with clk := { s.clk with current := c } }) ∧
    exec ins (atStep ins .W5 h v n c s) =
      .next (atStep ins .W6 h v n c { s with pwr := { s.pwr with gie := true, extpend := false } }) ∧
    (ins = .pmStopIrq →
      exec ins (atStep ins .W6 h v n c s) =
        .next { s with pwr := { s.pwr with tickie := true }, seq := .idle, rspC := some ⟨.ok, 0#32⟩ }) ∧
    (∀ lp deep u d, timedOf ins = some (lp, deep, u, d) →
      exec ins (atStep ins .W6 h v n c s) =
          .next (atStep ins .W7 h v n c { s with pwr := { s.pwr with tickie := true } }) ∧
        (s.rtc.src ≠ .none →
          exec ins (atStep ins .W7 h v n c s) =
            .next { s with rtc := armRtc u 0#32 s.rtc, seq := .idle, rspC := some ⟨.ok, 0#32⟩ }))

/-- R169: `PM_STOP_IRQ`, steps Q1 to Q6: no RTC state is read, and the wait ends on `EXTPEND`. The list is the
spec's own decision D27 (log entry 20). -/
def Obligations.StopUntilInterruptStepByStep : Prop :=
  ∀ (s : State) (h : Nat) (v : Byte) (n : Word) (c : ClkId),
    (s.seq = .idle →
      exec .pmStopIrq s =
        .next (atStep .pmStopIrq .Q2 0 0#8 0#32 0#8 { s with pwr := { s.pwr with gie := false }, rspC := none })) ∧
    exec .pmStopIrq (atStep .pmStopIrq .Q2 h v n c s) =
      .next (atStep .pmStopIrq .Q3 h v n c { s with pwr := { s.pwr with tickie := false } }) ∧
    exec .pmStopIrq (atStep .pmStopIrq .Q3 h v n c s) =
      .next (atStep .pmStopIrq .Q4 h v n c { s with pwr := { s.pwr with lpreg := false } }) ∧
    exec .pmStopIrq (atStep .pmStopIrq .Q4 h v n c s) =
      .next (atStep .pmStopIrq .Q5 h v n c { s with pwr := { s.pwr with deep := true } }) ∧
    exec .pmStopIrq (atStep .pmStopIrq .Q5 h v n c s) =
      .next (atStep .pmStopIrq .Q6 h v n c
        { s with pwr := { s.pwr with
          pstate := if s.pwr.deep then (if s.pwr.pdds then .standbyWait else .stopWait) else .sleepWait
          reglpf := s.pwr.lpreg || s.pwr.reglpf } }) ∧
    exec .pmStopIrq (atStep .pmStopIrq .Q6 h v n c s) =
      .next (if s.pwr.extpend = true then
          atStep .pmStopIrq .W1 h v n c { s with pwr := { s.pwr with pstate := .active } }
        else atStep .pmStopIrq .Q6 h v n c s)

/-- R170 to R173: the standby entry list, step by step, of the three standby commands, and B8, which never moves. -/
def Obligations.StandbyEntryStepByStep : Prop :=
  ∀ (ins : Instr) (s : State) (h : Nat) (v : Byte) (n : Word) (c : ClkId), isStandby ins = true →
    (s.seq = .idle → ins.wellFormed s.cfg = true →
      exec ins s =
        .next (atStep ins .B2 0 0#8 0#32 0#8 { s with pwr := { s.pwr with tickie := false }, rspC := none })) ∧
    exec ins (atStep ins .B2 h v n c s) =
      .next (atStep ins .B3 h v n c { s with pwr := { s.pwr with wuf := false } }) ∧
    exec ins (atStep ins .B3 h v n c s) =
      .next (atStep ins (if ins = .pmStandby then .B5 else .B4) h v n c
        { s with pwr := { s.pwr with vrefen := false, tsen := false, pvden := false } }) ∧
    (∀ d, ins = .pmStandbySec d → s.rtc.src ≠ .none →
      exec ins (atStep ins .B4 h v n c s) =
        .next (atStep ins .B5 h v n c { s with rtc := armRtc .seconds d s.rtc })) ∧
    (∀ p, ins = .pmStandbyPin p →
      exec ins (atStep ins .B4 h v n c s) =
        .next (atStep ins .B5 h v n c
          { s with pwr := { s.pwr with wupen := s.pwr.wupen ||| (1#3 <<< p.toNat) } })) ∧
    exec ins (atStep ins .B5 h v n c s) =
      .next (atStep ins .B6 h v n c { s with pwr := { s.pwr with pdds := true } }) ∧
    exec ins (atStep ins .B6 h v n c s) =
      .next (atStep ins .B7 h v n c { s with pwr := { s.pwr with deep := true } }) ∧
    exec ins (atStep ins .B7 h v n c s) =
      .next (atStep ins .B8 h v n c
        { s with pwr := { s.pwr with
          pstate := if s.pwr.deep then (if s.pwr.pdds then .standbyWait else .stopWait) else .sleepWait
          reglpf := s.pwr.lpreg || s.pwr.reglpf } }) ∧
    exec ins (atStep ins .B8 h v n c s) = .next (atStep ins .B8 h v n c s)

/-- R175, R176, R177: the events EV_WKUP(p), EV_EXTIRQ and EV_REGRDY, each the one field it writes and when. -/
def Obligations.PowerEventsWriteOneFlag : Prop :=
  ∀ s : State,
    (∀ p : Fin 3, evWkup p s =
      if s.pwr.wupen.getLsbD p.val = true then { s with pwr := { s.pwr with wuf := true } } else s) ∧
    (evExtIrq s =
      if s.pwr.gie = true ∧ s.pwr.pstate = .active then s else { s with pwr := { s.pwr with extpend := true } }) ∧
    (evRegRdy s =
      if s.pwr.lpreg = false ∧ s.pwr.reglpf = true then { s with pwr := { s.pwr with reglpf := false } } else s)

/-- R34 (marked derived by the spec): `IntCtx` is `GIE = 1 ∧ PSTATE = Active`; EV_TICK needs it and `TICKIE = 1`; while it
is false a step of port P and EV_TICK move nothing but the schedule (the command stays presented, held and not lost), and
a step that makes it true is W5 of a Wake list or a reset. That a held or disabled agent's step moves only the schedule
is log entry 8. -/
def Obligations.InterruptsAreHeldWhileMasked : Prop :=
  (∀ p : Pwr, intCtx p = true ↔ p.gie = true ∧ p.pstate = .active) ∧
  (∀ s : State, intCtx s.pwr = false ∨ s.pwr.tickie = false → evTick s = s) ∧
  (∀ s : State, s.faulted = none → intCtx s.pwr = false → (nextMove s = .portP ∨ nextMove s = .evTick) →
    step s = .next (dropMove s)) ∧
  (∀ s t : State, Inv s → step s = .next t → intCtx s.pwr = false → intCtx t.pwr = true →
    (∃ ins, stepTaken s = some (ins, .W5)) ∨ nextMove s = .powerOnReset ∨ nextMove s = .standbyExitReset)

/-- R160: the transitions of `PSTATE` are exactly those of the table: into a wait by the wait step of the commands named
for it, out of `SleepWait` and `StopWait` by a true wake condition, out of `StandbyWait` by an enabled StandbyExitReset,
and by PowerOnReset. -/
def Obligations.PowerStateTransitions : Prop :=
  ∀ s t : State, Inv s → step s = .next t → t.pwr.pstate ≠ s.pwr.pstate →
    (s.pwr.pstate = .active ∧ t.pwr.pstate = .sleepWait ∧
      ∃ u d, stepTaken s = some (.pmSleep u d, .E11) ∨ stepTaken s = some (.pmLpSleep u d, .E11)) ∨
    (s.pwr.pstate = .active ∧ t.pwr.pstate = .stopWait ∧
      ((∃ u d, stepTaken s = some (.pmStop u d, .E11) ∨ stepTaken s = some (.pmLpStop u d, .E11)) ∨
        stepTaken s = some (.pmStopIrq, .Q5))) ∨
    (s.pwr.pstate = .active ∧ t.pwr.pstate = .standbyWait ∧
      ∃ ins, isStandby ins = true ∧ stepTaken s = some (ins, .B7)) ∨
    ((s.pwr.pstate = .sleepWait ∨ s.pwr.pstate = .stopWait) ∧ t.pwr.pstate = .active ∧
      ((∃ ins, stepTaken s = some (ins, .E12) ∧ timedWake s = true) ∨
        (stepTaken s = some (.pmStopIrq, .Q6) ∧ s.pwr.extpend = true))) ∨
    (s.pwr.pstate = .standbyWait ∧ t.pwr.pstate = .active ∧ nextMove s = .standbyExitReset ∧
      standbyExitEnabled s = true) ∨
    (t.pwr.pstate = .active ∧ nextMove s = .powerOnReset)

/-- R179 (marked derived by the spec): the clock round trip. Whatever is scheduled (no PowerOnReset), when a timed command
or `PM_STOP_IRQ` begun with a recorded configuration has responded, `CLK_ACTIVE = TICK_CFG = CLK_CURRENT` is that
configuration, `GIE` and `TICKIE` are 1, `PSTATE` is Active, `LPREG`, `REGLPF` and `CLK_WAIT` are 0, and the comparator
the command armed is disarmed. -/
def Obligations.ClockRoundTrip : Prop :=
  ∀ (ins : Instr) (s s₁ t : State) (k : Nat), wakes ins = true → Inv s → s.seq = .idle → s.faulted = none →
    s.clk.current ≠ clkNone → noPowerOn s.sched = true → s.cmdC = [] →
    exec ins s = .next s₁ → run k s₁ = .next t → t.seq = .idle →
    t.clk = ⟨s.clk.current, s.clk.current, s.clk.current, .none⟩ ∧
      t.pwr.gie = true ∧ t.pwr.tickie = true ∧ t.pwr.pstate = .active ∧ t.pwr.lpreg = false ∧ t.pwr.reglpf = false ∧
      t.rspC = some ⟨.ok, 0#32⟩ ∧
      (∀ lp deep d, timedOf ins = some (lp, deep, .seconds, d) →
        t.rtc.alrEn = false ∧ t.rtc.alrIe = false ∧ t.rtc.alrF = false) ∧
      (∀ lp deep d, timedOf ins = some (lp, deep, .milliseconds, d) →
        t.rtc.wutEn = false ∧ t.rtc.wutIe = false ∧ t.rtc.wutF = false)

/-- R161 to R168, R330: a timed command with a nonzero duration, a running RTC and a recorded configuration can complete:
there is a schedule under which it answers `(OK, 0)` and no other command has moved. -/
def Obligations.TimedCommandCanComplete : Prop :=
  ∀ (ins : Instr) (s : State) (lp deep : Bool) (u : TimeUnit) (d : Word),
    timedOf ins = some (lp, deep, u, d) → d ≠ 0#32 → Inv s → s.seq = .idle → s.faulted = none →
    rtcRunning s = true → s.clk.current ≠ clkNone →
    ∃ (ms : List Move) (t : State),
      run ms.length { s with cmdC := encode ins :: s.cmdC, sched := ms } = .next t ∧ noReset ms = true ∧
        t.seq = .idle ∧ t.rspC = some ⟨.ok, 0#32⟩ ∧ t.cmdC = s.cmdC ∧ t.faulted = none

/-- R169: with one EV_EXTIRQ in the wait and three EV_CLKRDY, `PM_STOP_IRQ` completes, whatever `RTC_SRC` is: the end
state, field by field. The list it runs is the spec's own decision D27 (log entry 20); what port C drives is log
entry 14. -/
def Obligations.StopUntilInterruptCompletes : Prop :=
  ∀ s : State, Inv s → s.seq = .idle → s.faulted = none → s.clk.current ≠ clkNone →
    run 21 { s with
        cmdC := [encode .pmStopIrq]
        sched := [.portC, .portC, .portC, .portC, .portC, .evExtIrq] ++
          [.portC, .portC, .portC, .portC, .portC, .evClkRdy, .portC, .evClkRdy, .portC, .evClkRdy] ++
          [.portC, .portC, .portC, .portC, .portC] } =
      .next { s with
        cmdC := []
        sched := []
        clk := ⟨s.clk.current, s.clk.current, s.clk.current, .none⟩
        pwr := { s.pwr with tickie := true, deep := true }
        rspC := some ⟨.ok, 0#32⟩ }

/-- R180, R331: a timed command with duration 0 never responds while no comparator is armed or pending and external
interrupts do not end timed waits, whatever is scheduled (no PowerOnReset). That port C drives no response from
acceptance on is log entry 14. -/
def Obligations.DurationZeroNeverWakes : Prop :=
  ∀ (ins : Instr) (s s₁ t : State) (lp deep : Bool) (u : TimeUnit) (k : Nat),
    timedOf ins = some (lp, deep, u, 0#32) → Inv s → s.seq = .idle → s.faulted = none →
    s.rtc.alrEn = false → s.rtc.wutEn = false → rtcIrq s.rtc = false → s.cfg.timedWaitExtWake = false →
    noPowerOn s.sched = true → exec ins s = .next s₁ → run k s₁ = .next t →
    t.seq ≠ .idle ∧ t.rspC = none

/-- R102, R170: a standby command never responds: whatever is scheduled but a reset, it stays in flight and port C
drives no response (the response output is log entry 14). -/
def Obligations.StandbyNeverResponds : Prop :=
  ∀ (ins : Instr) (s s₁ t : State) (k : Nat), isStandby ins = true → Inv s → s.seq = .idle → s.faulted = none →
    ins.wellFormed s.cfg = true → noReset s.sched = true → exec ins s = .next s₁ → run k s₁ = .next t →
    (∃ f, t.seq = .busy f ∧ f.ins = ins) ∧ t.rspC = none

/-- R173, R174, R312 (program C): `PM_STANDBY_PIN p`, then EV_WKUP(p), then StandbyExitReset: a new `Active` with
`SEQ = Idle`; `BKP`, `RTCNT` and `RTC_SRC` are those before standby; the rings are empty, `TICK = 0`, the clock selection
is gone, and there is no response. The draw count, that storage lists nothing, and that no response is driven after the
reset are the model's choices (log entries 5, 6 and 14). -/
def Obligations.WakePinLeavesStandbyByReset : Prop :=
  ∀ (s : State) (p : Fin 3), Inv s → s.seq = .idle → s.faulted = none →
    ∃ t, run 9 { s with
        cmdC := [encode (.pmStandbyPin (BitVec.ofNat 8 p.val))]
        sched := [.portC, .portC, .portC, .portC, .portC, .portC, .portC, .evWkup p, .standbyExitReset] } = .next t ∧
      t.seq = .idle ∧ t.pwr.pstate = .active ∧ t.rtc.bkp = s.rtc.bkp ∧ t.rtc.cnt = s.rtc.cnt ∧ t.rtc.src = s.rtc.src ∧
      t.rings = List.replicate s.cfg.nRb ⟨0, 0, []⟩ ∧ t.tick = 0#32 ∧
      t.clk = ⟨clkResetDef, clkNone, clkNone, .none⟩ ∧ t.rspC = none ∧ t.acc = s.acc ∧ t.draws = s.draws + 1

/-! ### Status read (45_status.md, 10_state.md) -/

/-- R40 to R43, R49, R50, R260: `CSR_READ` answers the register named, register by register, and changes nothing but the
response; `SEQSR` always reads `0x00000001`. -/
def Obligations.CsrReadAnswersTheRegister : Prop :=
  ∀ s : State, s.seq = .idle →
    (∀ n w, (n, w) ∈ [(0x00#8, pmsr s.pwr), (0x01#8, clksr s.clk), (0x02#8, rtcsr s.rtc),
        (0x03#8, s.rtc.cnt.extractLsb' 0 32), (0x04#8, s.rtc.cnt.extractLsb' 32 32),
        (0x05#8, s.rtc.alrTgt.extractLsb' 0 32), (0x06#8, s.rtc.alrTgt.extractLsb' 32 32),
        (0x07#8, s.rtc.wutPeriod), (0x08#8, s.rtc.wutNext.extractLsb' 0 32),
        (0x09#8, s.rtc.wutNext.extractLsb' 32 32), (0x0A#8, s.tick), (0x0B#8, 0x00000001#32)] →
      exec (.csrRead n 0#8) s = .next { s with seq := .idle, rspC := some ⟨.ok, w⟩ }) ∧
    (∀ b : Byte, b.toNat < s.cfg.nRb →
      exec (.csrRead 0x10#8 b) s =
          .next { s with seq := .idle, rspC := some ⟨.ok, BitVec.ofNat 32 (ringAt b.toNat s).head⟩ } ∧
        exec (.csrRead 0x11#8 b) s =
          .next { s with seq := .idle, rspC := some ⟨.ok, BitVec.ofNat 32 (ringAt b.toNat s).tail⟩ })

/-- R41, R42, R43: the codes of `PSTATE` (0 to 3), `CLK_WAIT` (0 to 3) and `RTC_SRC` (0 to 2), and the bit positions of
the fields of `PMSR`, `CLKSR` and `RTCSR`; reserved bits read 0. R102: the response word, and the codes of `st`. -/
def Obligations.StatusRegisterBits : Prop :=
  (PState.active.code = 0#2 ∧ PState.sleepWait.code = 1#2 ∧ PState.stopWait.code = 2#2 ∧
    PState.standbyWait.code = 3#2) ∧
  (ClkWait.none.code = 0#2 ∧ ClkWait.osc.code = 1#2 ∧ ClkWait.src.code = 2#2 ∧ ClkWait.sw.code = 3#2) ∧
  (RtcSrc.none.code = 0#2 ∧ RtcSrc.internal.code = 1#2 ∧ RtcSrc.external.code = 2#2) ∧
  (Status.ok.code = 0#2 ∧ Status.illegal.code = 1#2 ∧
    ∀ r : Rsp, r.word.extractLsb' 32 2 = r.st.code ∧ r.word.extractLsb' 0 32 = r.val) ∧
  (∀ p : Pwr,
    (pmsr p).extractLsb' 0 2 = p.pstate.code ∧ (pmsr p).getLsbD 2 = p.gie ∧ (pmsr p).getLsbD 3 = p.tickie ∧
    (pmsr p).getLsbD 4 = p.rtcie ∧ (pmsr p).getLsbD 5 = p.lpreg ∧ (pmsr p).getLsbD 6 = p.reglpf ∧
    (pmsr p).getLsbD 7 = p.deep ∧ (pmsr p).getLsbD 8 = p.pdds ∧ (pmsr p).getLsbD 9 = p.wuf ∧
    (pmsr p).getLsbD 10 = p.prefetch ∧ (pmsr p).getLsbD 11 = p.flashpd ∧ (pmsr p).getLsbD 12 = p.vrefen ∧
    (pmsr p).getLsbD 13 = p.tsen ∧ (pmsr p).getLsbD 14 = p.pvden ∧ (pmsr p).extractLsb' 15 3 = p.wupen ∧
    (pmsr p).getLsbD 18 = p.extpend ∧ (pmsr p).extractLsb' 19 13 = 0#13) ∧
  (∀ c : Clk,
    (clksr c).extractLsb' 0 8 = c.active ∧ (clksr c).extractLsb' 8 8 = c.current ∧
    (clksr c).extractLsb' 16 8 = c.tickCfg ∧ (clksr c).extractLsb' 24 2 = c.wait.code ∧
    (clksr c).extractLsb' 26 6 = 0#6) ∧
  (∀ r : Rtc,
    (rtcsr r).extractLsb' 0 2 = r.src.code ∧ (rtcsr r).getLsbD 2 = r.alrEn ∧ (rtcsr r).getLsbD 3 = r.alrIe ∧
    (rtcsr r).getLsbD 4 = r.alrF ∧ (rtcsr r).getLsbD 5 = r.wutEn ∧ (rtcsr r).getLsbD 6 = r.wutIe ∧
    (rtcsr r).getLsbD 7 = r.wutF ∧ (rtcsr r).extractLsb' 8 24 = 0#24)

/-- R51 (marked derived by the spec): a `CSR_READ` of `PMSR` always shows `PSTATE = Active`, `GIE = 1` and
`EXTPEND = 0`. -/
def Obligations.PmsrReadsShowActive : Prop :=
  ∀ s t : State, Inv s → s.seq = .idle → exec (.csrRead 0x00#8 0#8) s = .next t →
    ∃ w, t.rspC = some ⟨.ok, w⟩ ∧ w.extractLsb' 0 2 = 0#2 ∧ w.getLsbD 2 = true ∧ w.getLsbD 18 = false

/-! ### Reset (70_reset_and_hazards.md) -/

/-- R311, R313: the values the spec states for PowerOnReset, in the state of the start of a run with any parameters and
any draw of the unspecified values. That ring storage lists nothing is the model's choice (log entry 6). -/
def Obligations.PowerOnValues : Prop :=
  ∀ (p : Params) (d : Draw), let s := State.powerOn p d
    s.rings = List.replicate p.nRb ⟨0, 0, []⟩ ∧ s.tick = 0#32 ∧ s.seq = .idle ∧ s.faulted = none ∧ s.acc = [] ∧
      s.pwr = ⟨.active, true, false, false, false, false, false, false, false, d.prefetch, false, d.vrefen, d.tsen,
        d.pvden, 0#3, false⟩ ∧
      s.clk = ⟨clkResetDef, clkNone, clkNone, .none⟩ ∧
      s.rtc.src = .none ∧ comparatorBits s.rtc = [false, false, false, false, false, false] ∧
      clksr s.clk = 0x00FDFDFF#32

/-- R310, R311: PowerOnReset is enabled in every state and leaves the state of the start of a run with some draw of the
unspecified values, but that `ACC`, the scripts and the schedule go on. The model's choices: the draw count (log
entry 5), storage that lists nothing (6), a recorded fault ends the run, so the reset is stated of every state without one
(11), no response driven after the reset (14), the scripts going on (18). -/
def Obligations.PowerOnResetRestarts : Prop :=
  ∀ s : State, s.faulted = none → nextMove s = .powerOnReset →
    ∃ d : Draw, step s = .next { State.powerOn s.cfg d with
      acc := s.acc, cmdC := s.cmdC, cmdP := s.cmdP, sched := s.sched.tail, draws := s.draws + 1 }

/-- R174, R312: StandbyExitReset is enabled iff `PSTATE = StandbyWait ∧ (WUF = 1 ∨ rtc_irq = 1)`; it leaves the values of
R311 but that `BKP`, `RTCNT` and `RTC_SRC` are preserved, `WUF` and the comparator targets are some values, and the
six comparator bits are 0 if `RTC_SRC = 0` and some values otherwise. The model's choices: the draw count (log entry 5),
storage that lists nothing (6), an exit that is not enabled leaves the state (8), no response driven after the reset (14),
the scripts going on (18). -/
def Obligations.StandbyExitValues : Prop :=
  ∀ s : State,
    (standbyExitEnabled s = true ↔
      s.pwr.pstate = .standbyWait ∧ (s.pwr.wuf = true ∨ rtcIrq s.rtc = true)) ∧
    (standbyExitEnabled s = false → evStandbyExit s = s) ∧
    (standbyExitEnabled s = true →
      ∃ (d : Draw) (wuf : Bool) (r : Rtc),
        evStandbyExit s = { State.powerOn s.cfg d with
          acc := s.acc, faulted := s.faulted, cmdC := s.cmdC, cmdP := s.cmdP, sched := s.sched, draws := s.draws + 1
          pwr := { Pwr.reset d with wuf := wuf }, rtc := r } ∧
        r.bkp = s.rtc.bkp ∧ r.cnt = s.rtc.cnt ∧ r.src = s.rtc.src ∧
        (s.rtc.src = .none → comparatorBits r = [false, false, false, false, false, false]))

/-! ### The whole machine -/

/-- The invariant holds at reset: every ring as R24 says, clock ids legal, comparator bits 0, `SEQ` idle and quiet. -/
def Obligations.ResetMeetsTheInvariant : Prop := Inv State.reset

/-- Every step, of every agent, from every state that meets the invariant keeps it: cursors in range and storage in
canonical form (R24), the clock ids legal (R42, R44), the comparator bits 0 while `RTC_SRC = 0` (R43), and `SEQ` at a
step of its command with `PSTATE`, `GIE`, `TICKIE`, `LPREG`, `REGLPF`, `PDDS`, `WUPEN`, `EXTPEND` and `CLK_WAIT` as that
step requires (R51, R74, R161, R168, R171). -/
def Obligations.EveryStepKeepsTheInvariant : Prop :=
  ∀ s t : State, Inv s → step s = .next t → Inv t

/-- From every state that meets the invariant the machine goes on, unless a word stands on the wrong port: port C
presented with `RB_INSERT`, or port P with another opcode (R99). No command is ever refused or stuck on a missing
meaning. -/
def Obligations.OnlyWrongPortWordsAreRefused : Prop :=
  ∀ s : State, Inv s → s.faulted = none →
    (∃ t, step s = .next t) ∨
      (∃ w rest, nextMove s = .portC ∧ s.seq = .idle ∧ s.cmdC = w :: rest ∧ opField w = 0x20#8) ∨
      (∃ w rest, nextMove s = .portP ∧ intCtx s.pwr = true ∧ s.cmdP = w :: rest ∧ opField w ≠ 0x20#8)

/-- R74, R337: from E2 or Q2 to W5 of a power command no `RB_INSERT` and no EV_TICK occurs: no step but a reset changes
`TICK` or any ring. -/
def Obligations.NothingInterruptsAPowerSequence : Prop :=
  ∀ (s t : State) (f : Flight), Inv s → s.seq = .busy f → masked f.step = true → step s = .next t →
    (t.tick = s.tick ∧ t.rings = s.rings ∧ t.cmdP = s.cmdP) ∨ nextMove s = .powerOnReset
end

