-- ==== Sys2Proof/Laws/Decode.lean ====
section
/-! SUPPORT. The fields of an assembled command word, and of the narrower pieces it is assembled from. -/

namespace Sys2Proof

/-- The bits of a command word. -/
theorem getLsbD_cmdOf (op idx : Byte) (arg : Word) (i : Nat) :
    (cmdOf op idx arg).getLsbD i =
      if i < 32 then arg.getLsbD i else if i - 32 < 8 then idx.getLsbD (i - 32) else op.getLsbD (i - 32 - 8) := by
  have h1 := BitVec.getLsbD_append (x := op ++ idx) (y := arg) (i := i)
  have h2 := BitVec.getLsbD_append (x := op) (y := idx) (i := i - 32)
  simp only [h2] at h1
  exact h1

@[simp] theorem opField_cmdOf (op idx : Byte) (arg : Word) : opField (cmdOf op idx arg) = op := by
  refine BitVec.eq_of_getLsbD_eq fun i hi => ?_
  have h1 : ¬ 40 + i < 32 := by omega
  have h2 : ¬ 40 + i - 32 < 8 := by omega
  have h3 : 40 + i - 32 - 8 = i := by omega
  simp only [opField, BitVec.getLsbD_extractLsb', getLsbD_cmdOf, h1, h2, h3, if_false, hi, decide_true, Bool.true_and]

@[simp] theorem idxField_cmdOf (op idx : Byte) (arg : Word) : idxField (cmdOf op idx arg) = idx := by
  refine BitVec.eq_of_getLsbD_eq fun i hi => ?_
  have h1 : ¬ 32 + i < 32 := by omega
  have h2 : 32 + i - 32 = i := by omega
  simp only [idxField, BitVec.getLsbD_extractLsb', getLsbD_cmdOf, h1, h2, hi, if_false, if_true, decide_true,
    Bool.true_and]

@[simp] theorem argField_cmdOf (op idx : Byte) (arg : Word) : argField (cmdOf op idx arg) = arg := by
  refine BitVec.eq_of_getLsbD_eq fun i hi => ?_
  simp only [argField, BitVec.getLsbD_extractLsb', getLsbD_cmdOf, hi, if_true, decide_true, Bool.true_and,
    Nat.zero_add]

/-- A command word is its three fields. -/
theorem cmdOf_fields (w : Cmd) : cmdOf (opField w) (idxField w) (argField w) = w := by
  refine BitVec.eq_of_getLsbD_eq fun i hi => ?_
  simp only [getLsbD_cmdOf, opField, idxField, argField, BitVec.getLsbD_extractLsb']
  by_cases h1 : i < 32
  · simp [h1]
  · by_cases h2 : i - 32 < 8
    · have h3 : 32 + (i - 32) = i := by omega
      simp [h1, h2, h3]
    · have h3 : i - 32 - 8 < 8 := by omega
      have h4 : 40 + (i - 32 - 8) = i := by omega
      simp [h1, h2, h3, h4]

/-- The bits of a byte placed in `arg[7:0]`. -/
theorem getLsbD_byteArg (b : Byte) (i : Nat) : (0#24 ++ b : Word).getLsbD i = if i < 8 then b.getLsbD i else false := by
  have h := BitVec.getLsbD_append (x := 0#24) (y := b) (i := i)
  simpa [Bool.cond_eq_ite] using h

@[simp] theorem byteArg_low (b : Byte) : (0#24 ++ b : Word).extractLsb' 0 8 = b := by
  refine BitVec.eq_of_getLsbD_eq fun i hi => ?_
  simp [getLsbD_byteArg, hi]

@[simp] theorem byteArg_high (b : Byte) : (0#24 ++ b : Word).extractLsb' 8 24 = 0#24 := by
  refine BitVec.eq_of_getLsbD_eq fun i hi => ?_
  simp [getLsbD_byteArg]

/-- An `arg` whose bits 31 to 8 are zero is its low byte. -/
theorem byteArg_of_high (x : Word) (h : x.extractLsb' 8 24 = 0#24) : (0#24 ++ x.extractLsb' 0 8 : Word) = x := by
  refine BitVec.eq_of_getLsbD_eq fun i hi => ?_
  rw [getLsbD_byteArg]
  by_cases h8 : i < 8
  · simp [h8]
  · have hb := congrArg (fun y => BitVec.getLsbD y (i - 8)) h
    have h3 : i - 8 < 24 := by omega
    have h4 : 8 + (i - 8) = i := by omega
    simp [h3, h4] at hb
    simp [h8, hb]

/-- A unit bit in an `idx` field. -/
@[simp] theorem unitIdx_high (u : TimeUnit) : (0#7 ++ bitOfUnit u : Byte).extractLsb' 1 7 = 0#7 := by
  cases u <;> decide

@[simp] theorem unitIdx_low (u : TimeUnit) : unitOfBit ((0#7 ++ bitOfUnit u : Byte).getLsbD 0) = u := by
  cases u <;> decide

@[simp] theorem unitIdx_bit (u : TimeUnit) : unitOfBit (0#7 ++ bitOfUnit u : Byte)[0] = u := unitIdx_low u

/-- An `idx` whose bits 7 to 1 are zero is its unit bit. -/
theorem unitIdx_of_high (x : Byte) (h : x.extractLsb' 1 7 = 0#7) :
    (0#7 ++ bitOfUnit (unitOfBit (x.getLsbD 0)) : Byte) = x := by
  revert x; decide

@[simp] theorem opField_encode (ins : Instr) : opField (encode ins) = ins.opcode := opField_cmdOf ..

@[simp] theorem idxField_encode (ins : Instr) : idxField (encode ins) = ins.idx := idxField_cmdOf ..

@[simp] theorem argField_encode (ins : Instr) : argField (encode ins) = ins.arg := argField_cmdOf ..

end Sys2Proof
end

