-- ==== Sys2Proof/Laws/State.lean ====
section
/-! SUPPORT. One lemma per field per update of State, each true by rfl: no proof unfolds a record update. -/

namespace Sys2Proof.Machine

/-! ### respondC -/

@[simp] theorem respondC_rings (st : Status) (val : Word) (s : State) : (respondC st val s).rings = s.rings := rfl
@[simp] theorem respondC_tick (st : Status) (val : Word) (s : State) : (respondC st val s).tick = s.tick := rfl
@[simp] theorem respondC_rtc (st : Status) (val : Word) (s : State) : (respondC st val s).rtc = s.rtc := rfl
@[simp] theorem respondC_pwr (st : Status) (val : Word) (s : State) : (respondC st val s).pwr = s.pwr := rfl
@[simp] theorem respondC_clk (st : Status) (val : Word) (s : State) : (respondC st val s).clk = s.clk := rfl
@[simp] theorem respondC_seq (st : Status) (val : Word) (s : State) : (respondC st val s).seq = .idle := rfl
@[simp] theorem respondC_acc (st : Status) (val : Word) (s : State) : (respondC st val s).acc = s.acc := rfl
@[simp] theorem respondC_faulted (st : Status) (val : Word) (s : State) : (respondC st val s).faulted = s.faulted := rfl
@[simp] theorem respondC_cfg (st : Status) (val : Word) (s : State) : (respondC st val s).cfg = s.cfg := rfl
@[simp] theorem respondC_cmdC (st : Status) (val : Word) (s : State) : (respondC st val s).cmdC = s.cmdC := rfl
@[simp] theorem respondC_cmdP (st : Status) (val : Word) (s : State) : (respondC st val s).cmdP = s.cmdP := rfl
@[simp] theorem respondC_sched (st : Status) (val : Word) (s : State) : (respondC st val s).sched = s.sched := rfl
@[simp] theorem respondC_rspC (st : Status) (val : Word) (s : State) : (respondC st val s).rspC = some ⟨st, val⟩ := rfl
@[simp] theorem respondC_rspP (st : Status) (val : Word) (s : State) : (respondC st val s).rspP = s.rspP := rfl
@[simp] theorem respondC_draws (st : Status) (val : Word) (s : State) : (respondC st val s).draws = s.draws := rfl

/-! ### respondP -/

@[simp] theorem respondP_rings (st : Status) (val : Word) (s : State) : (respondP st val s).rings = s.rings := rfl
@[simp] theorem respondP_tick (st : Status) (val : Word) (s : State) : (respondP st val s).tick = s.tick := rfl
@[simp] theorem respondP_rtc (st : Status) (val : Word) (s : State) : (respondP st val s).rtc = s.rtc := rfl
@[simp] theorem respondP_pwr (st : Status) (val : Word) (s : State) : (respondP st val s).pwr = s.pwr := rfl
@[simp] theorem respondP_clk (st : Status) (val : Word) (s : State) : (respondP st val s).clk = s.clk := rfl
@[simp] theorem respondP_seq (st : Status) (val : Word) (s : State) : (respondP st val s).seq = s.seq := rfl
@[simp] theorem respondP_acc (st : Status) (val : Word) (s : State) : (respondP st val s).acc = s.acc := rfl
@[simp] theorem respondP_faulted (st : Status) (val : Word) (s : State) : (respondP st val s).faulted = s.faulted := rfl
@[simp] theorem respondP_cfg (st : Status) (val : Word) (s : State) : (respondP st val s).cfg = s.cfg := rfl
@[simp] theorem respondP_cmdC (st : Status) (val : Word) (s : State) : (respondP st val s).cmdC = s.cmdC := rfl
@[simp] theorem respondP_cmdP (st : Status) (val : Word) (s : State) : (respondP st val s).cmdP = s.cmdP := rfl
@[simp] theorem respondP_sched (st : Status) (val : Word) (s : State) : (respondP st val s).sched = s.sched := rfl
@[simp] theorem respondP_rspC (st : Status) (val : Word) (s : State) : (respondP st val s).rspC = s.rspC := rfl
@[simp] theorem respondP_rspP (st : Status) (val : Word) (s : State) : (respondP st val s).rspP = some ⟨st, val⟩ := rfl
@[simp] theorem respondP_draws (st : Status) (val : Word) (s : State) : (respondP st val s).draws = s.draws := rfl

/-! ### goto -/

@[simp] theorem goto_rings (f : Flight) (st : StepName) (s : State) : (goto f st s).rings = s.rings := rfl
@[simp] theorem goto_tick (f : Flight) (st : StepName) (s : State) : (goto f st s).tick = s.tick := rfl
@[simp] theorem goto_rtc (f : Flight) (st : StepName) (s : State) : (goto f st s).rtc = s.rtc := rfl
@[simp] theorem goto_pwr (f : Flight) (st : StepName) (s : State) : (goto f st s).pwr = s.pwr := rfl
@[simp] theorem goto_clk (f : Flight) (st : StepName) (s : State) : (goto f st s).clk = s.clk := rfl
@[simp] theorem goto_seq (f : Flight) (st : StepName) (s : State) : (goto f st s).seq = .busy { f with step := st } := rfl
@[simp] theorem goto_acc (f : Flight) (st : StepName) (s : State) : (goto f st s).acc = s.acc := rfl
@[simp] theorem goto_faulted (f : Flight) (st : StepName) (s : State) : (goto f st s).faulted = s.faulted := rfl
@[simp] theorem goto_cfg (f : Flight) (st : StepName) (s : State) : (goto f st s).cfg = s.cfg := rfl
@[simp] theorem goto_cmdC (f : Flight) (st : StepName) (s : State) : (goto f st s).cmdC = s.cmdC := rfl
@[simp] theorem goto_cmdP (f : Flight) (st : StepName) (s : State) : (goto f st s).cmdP = s.cmdP := rfl
@[simp] theorem goto_sched (f : Flight) (st : StepName) (s : State) : (goto f st s).sched = s.sched := rfl
@[simp] theorem goto_rspC (f : Flight) (st : StepName) (s : State) : (goto f st s).rspC = s.rspC := rfl
@[simp] theorem goto_rspP (f : Flight) (st : StepName) (s : State) : (goto f st s).rspP = s.rspP := rfl
@[simp] theorem goto_draws (f : Flight) (st : StepName) (s : State) : (goto f st s).draws = s.draws := rfl

/-! ### atStep -/

@[simp] theorem atStep_rings (ins : Instr) (st : StepName) (h : Nat) (v : Byte) (n : Word) (c : ClkId) (s : State) : (atStep ins st h v n c s).rings = s.rings := rfl
@[simp] theorem atStep_tick (ins : Instr) (st : StepName) (h : Nat) (v : Byte) (n : Word) (c : ClkId) (s : State) : (atStep ins st h v n c s).tick = s.tick := rfl
@[simp] theorem atStep_rtc (ins : Instr) (st : StepName) (h : Nat) (v : Byte) (n : Word) (c : ClkId) (s : State) : (atStep ins st h v n c s).rtc = s.rtc := rfl
@[simp] theorem atStep_pwr (ins : Instr) (st : StepName) (h : Nat) (v : Byte) (n : Word) (c : ClkId) (s : State) : (atStep ins st h v n c s).pwr = s.pwr := rfl
@[simp] theorem atStep_clk (ins : Instr) (st : StepName) (h : Nat) (v : Byte) (n : Word) (c : ClkId) (s : State) : (atStep ins st h v n c s).clk = s.clk := rfl
@[simp] theorem atStep_seq (ins : Instr) (st : StepName) (h : Nat) (v : Byte) (n : Word) (c : ClkId) (s : State) : (atStep ins st h v n c s).seq = .busy ⟨ins, st, h, v, n, c⟩ := rfl
@[simp] theorem atStep_acc (ins : Instr) (st : StepName) (h : Nat) (v : Byte) (n : Word) (c : ClkId) (s : State) : (atStep ins st h v n c s).acc = s.acc := rfl
@[simp] theorem atStep_faulted (ins : Instr) (st : StepName) (h : Nat) (v : Byte) (n : Word) (c : ClkId) (s : State) : (atStep ins st h v n c s).faulted = s.faulted := rfl
@[simp] theorem atStep_cfg (ins : Instr) (st : StepName) (h : Nat) (v : Byte) (n : Word) (c : ClkId) (s : State) : (atStep ins st h v n c s).cfg = s.cfg := rfl
@[simp] theorem atStep_cmdC (ins : Instr) (st : StepName) (h : Nat) (v : Byte) (n : Word) (c : ClkId) (s : State) : (atStep ins st h v n c s).cmdC = s.cmdC := rfl
@[simp] theorem atStep_cmdP (ins : Instr) (st : StepName) (h : Nat) (v : Byte) (n : Word) (c : ClkId) (s : State) : (atStep ins st h v n c s).cmdP = s.cmdP := rfl
@[simp] theorem atStep_sched (ins : Instr) (st : StepName) (h : Nat) (v : Byte) (n : Word) (c : ClkId) (s : State) : (atStep ins st h v n c s).sched = s.sched := rfl
@[simp] theorem atStep_rspC (ins : Instr) (st : StepName) (h : Nat) (v : Byte) (n : Word) (c : ClkId) (s : State) : (atStep ins st h v n c s).rspC = s.rspC := rfl
@[simp] theorem atStep_rspP (ins : Instr) (st : StepName) (h : Nat) (v : Byte) (n : Word) (c : ClkId) (s : State) : (atStep ins st h v n c s).rspP = s.rspP := rfl
@[simp] theorem atStep_draws (ins : Instr) (st : StepName) (h : Nat) (v : Byte) (n : Word) (c : ClkId) (s : State) : (atStep ins st h v n c s).draws = s.draws := rfl

/-! ### setRing -/

@[simp] theorem setRing_rings (i : Nat) (r : Ring) (s : State) : (setRing i r s).rings = s.rings.set i r := rfl
@[simp] theorem setRing_tick (i : Nat) (r : Ring) (s : State) : (setRing i r s).tick = s.tick := rfl
@[simp] theorem setRing_rtc (i : Nat) (r : Ring) (s : State) : (setRing i r s).rtc = s.rtc := rfl
@[simp] theorem setRing_pwr (i : Nat) (r : Ring) (s : State) : (setRing i r s).pwr = s.pwr := rfl
@[simp] theorem setRing_clk (i : Nat) (r : Ring) (s : State) : (setRing i r s).clk = s.clk := rfl
@[simp] theorem setRing_seq (i : Nat) (r : Ring) (s : State) : (setRing i r s).seq = s.seq := rfl
@[simp] theorem setRing_acc (i : Nat) (r : Ring) (s : State) : (setRing i r s).acc = s.acc := rfl
@[simp] theorem setRing_faulted (i : Nat) (r : Ring) (s : State) : (setRing i r s).faulted = s.faulted := rfl
@[simp] theorem setRing_cfg (i : Nat) (r : Ring) (s : State) : (setRing i r s).cfg = s.cfg := rfl
@[simp] theorem setRing_cmdC (i : Nat) (r : Ring) (s : State) : (setRing i r s).cmdC = s.cmdC := rfl
@[simp] theorem setRing_cmdP (i : Nat) (r : Ring) (s : State) : (setRing i r s).cmdP = s.cmdP := rfl
@[simp] theorem setRing_sched (i : Nat) (r : Ring) (s : State) : (setRing i r s).sched = s.sched := rfl
@[simp] theorem setRing_rspC (i : Nat) (r : Ring) (s : State) : (setRing i r s).rspC = s.rspC := rfl
@[simp] theorem setRing_rspP (i : Nat) (r : Ring) (s : State) : (setRing i r s).rspP = s.rspP := rfl
@[simp] theorem setRing_draws (i : Nat) (r : Ring) (s : State) : (setRing i r s).draws = s.draws := rfl

/-! ### onPwr -/

@[simp] theorem onPwr_rings (g : Pwr → Pwr) (s : State) : (onPwr g s).rings = s.rings := rfl
@[simp] theorem onPwr_tick (g : Pwr → Pwr) (s : State) : (onPwr g s).tick = s.tick := rfl
@[simp] theorem onPwr_rtc (g : Pwr → Pwr) (s : State) : (onPwr g s).rtc = s.rtc := rfl
@[simp] theorem onPwr_pwr (g : Pwr → Pwr) (s : State) : (onPwr g s).pwr = g s.pwr := rfl
@[simp] theorem onPwr_clk (g : Pwr → Pwr) (s : State) : (onPwr g s).clk = s.clk := rfl
@[simp] theorem onPwr_seq (g : Pwr → Pwr) (s : State) : (onPwr g s).seq = s.seq := rfl
@[simp] theorem onPwr_acc (g : Pwr → Pwr) (s : State) : (onPwr g s).acc = s.acc := rfl
@[simp] theorem onPwr_faulted (g : Pwr → Pwr) (s : State) : (onPwr g s).faulted = s.faulted := rfl
@[simp] theorem onPwr_cfg (g : Pwr → Pwr) (s : State) : (onPwr g s).cfg = s.cfg := rfl
@[simp] theorem onPwr_cmdC (g : Pwr → Pwr) (s : State) : (onPwr g s).cmdC = s.cmdC := rfl
@[simp] theorem onPwr_cmdP (g : Pwr → Pwr) (s : State) : (onPwr g s).cmdP = s.cmdP := rfl
@[simp] theorem onPwr_sched (g : Pwr → Pwr) (s : State) : (onPwr g s).sched = s.sched := rfl
@[simp] theorem onPwr_rspC (g : Pwr → Pwr) (s : State) : (onPwr g s).rspC = s.rspC := rfl
@[simp] theorem onPwr_rspP (g : Pwr → Pwr) (s : State) : (onPwr g s).rspP = s.rspP := rfl
@[simp] theorem onPwr_draws (g : Pwr → Pwr) (s : State) : (onPwr g s).draws = s.draws := rfl

/-! ### clockTreeReset -/

@[simp] theorem clockTreeReset_rings (s : State) : (clockTreeReset s).rings = s.rings := rfl
@[simp] theorem clockTreeReset_tick (s : State) : (clockTreeReset s).tick = s.tick := rfl
@[simp] theorem clockTreeReset_rtc (s : State) : (clockTreeReset s).rtc = s.rtc := rfl
@[simp] theorem clockTreeReset_pwr (s : State) : (clockTreeReset s).pwr = s.pwr := rfl
@[simp] theorem clockTreeReset_clk (s : State) : (clockTreeReset s).clk = { s.clk with active := clkResetDef, wait := .none } := rfl
@[simp] theorem clockTreeReset_seq (s : State) : (clockTreeReset s).seq = s.seq := rfl
@[simp] theorem clockTreeReset_acc (s : State) : (clockTreeReset s).acc = s.acc := rfl
@[simp] theorem clockTreeReset_faulted (s : State) : (clockTreeReset s).faulted = s.faulted := rfl
@[simp] theorem clockTreeReset_cfg (s : State) : (clockTreeReset s).cfg = s.cfg := rfl
@[simp] theorem clockTreeReset_cmdC (s : State) : (clockTreeReset s).cmdC = s.cmdC := rfl
@[simp] theorem clockTreeReset_cmdP (s : State) : (clockTreeReset s).cmdP = s.cmdP := rfl
@[simp] theorem clockTreeReset_sched (s : State) : (clockTreeReset s).sched = s.sched := rfl
@[simp] theorem clockTreeReset_rspC (s : State) : (clockTreeReset s).rspC = s.rspC := rfl
@[simp] theorem clockTreeReset_rspP (s : State) : (clockTreeReset s).rspP = s.rspP := rfl
@[simp] theorem clockTreeReset_draws (s : State) : (clockTreeReset s).draws = s.draws := rfl

/-! ### enterWait -/

@[simp] theorem enterWait_rings (s : State) : (enterWait s).rings = s.rings := rfl
@[simp] theorem enterWait_tick (s : State) : (enterWait s).tick = s.tick := rfl
@[simp] theorem enterWait_rtc (s : State) : (enterWait s).rtc = s.rtc := rfl
@[simp] theorem enterWait_pwr (s : State) : (enterWait s).pwr = { s.pwr with pstate := waitState s.pwr, reglpf := s.pwr.lpreg || s.pwr.reglpf } := rfl
@[simp] theorem enterWait_clk (s : State) : (enterWait s).clk = s.clk := rfl
@[simp] theorem enterWait_seq (s : State) : (enterWait s).seq = s.seq := rfl
@[simp] theorem enterWait_acc (s : State) : (enterWait s).acc = s.acc := rfl
@[simp] theorem enterWait_faulted (s : State) : (enterWait s).faulted = s.faulted := rfl
@[simp] theorem enterWait_cfg (s : State) : (enterWait s).cfg = s.cfg := rfl
@[simp] theorem enterWait_cmdC (s : State) : (enterWait s).cmdC = s.cmdC := rfl
@[simp] theorem enterWait_cmdP (s : State) : (enterWait s).cmdP = s.cmdP := rfl
@[simp] theorem enterWait_sched (s : State) : (enterWait s).sched = s.sched := rfl
@[simp] theorem enterWait_rspC (s : State) : (enterWait s).rspC = s.rspC := rfl
@[simp] theorem enterWait_rspP (s : State) : (enterWait s).rspP = s.rspP := rfl
@[simp] theorem enterWait_draws (s : State) : (enterWait s).draws = s.draws := rfl

/-! ### emit -/

@[simp] theorem emit_rings (i b : Byte) (s : State) : (emit i b s).rings = s.rings := rfl
@[simp] theorem emit_tick (i b : Byte) (s : State) : (emit i b s).tick = s.tick := rfl
@[simp] theorem emit_rtc (i b : Byte) (s : State) : (emit i b s).rtc = s.rtc := rfl
@[simp] theorem emit_pwr (i b : Byte) (s : State) : (emit i b s).pwr = s.pwr := rfl
@[simp] theorem emit_clk (i b : Byte) (s : State) : (emit i b s).clk = s.clk := rfl
@[simp] theorem emit_seq (i b : Byte) (s : State) : (emit i b s).seq = s.seq := rfl
@[simp] theorem emit_acc (i b : Byte) (s : State) : (emit i b s).acc = s.acc ++ [(i, b)] := rfl
@[simp] theorem emit_faulted (i b : Byte) (s : State) : (emit i b s).faulted = s.faulted := rfl
@[simp] theorem emit_cfg (i b : Byte) (s : State) : (emit i b s).cfg = s.cfg := rfl
@[simp] theorem emit_cmdC (i b : Byte) (s : State) : (emit i b s).cmdC = s.cmdC := rfl
@[simp] theorem emit_cmdP (i b : Byte) (s : State) : (emit i b s).cmdP = s.cmdP := rfl
@[simp] theorem emit_sched (i b : Byte) (s : State) : (emit i b s).sched = s.sched := rfl
@[simp] theorem emit_rspC (i b : Byte) (s : State) : (emit i b s).rspC = s.rspC := rfl
@[simp] theorem emit_rspP (i b : Byte) (s : State) : (emit i b s).rspP = s.rspP := rfl
@[simp] theorem emit_draws (i b : Byte) (s : State) : (emit i b s).draws = s.draws := rfl

/-! ### bkpSet -/

@[simp] theorem bkpSet_rings (k : Byte) (w : Word) (s : State) : (bkpSet k w s).rings = s.rings := rfl
@[simp] theorem bkpSet_tick (k : Byte) (w : Word) (s : State) : (bkpSet k w s).tick = s.tick := rfl
@[simp] theorem bkpSet_rtc (k : Byte) (w : Word) (s : State) : (bkpSet k w s).rtc = { s.rtc with bkp := s.rtc.bkp.setIfInBounds k.toNat w } := rfl
@[simp] theorem bkpSet_pwr (k : Byte) (w : Word) (s : State) : (bkpSet k w s).pwr = s.pwr := rfl
@[simp] theorem bkpSet_clk (k : Byte) (w : Word) (s : State) : (bkpSet k w s).clk = s.clk := rfl
@[simp] theorem bkpSet_seq (k : Byte) (w : Word) (s : State) : (bkpSet k w s).seq = s.seq := rfl
@[simp] theorem bkpSet_acc (k : Byte) (w : Word) (s : State) : (bkpSet k w s).acc = s.acc := rfl
@[simp] theorem bkpSet_faulted (k : Byte) (w : Word) (s : State) : (bkpSet k w s).faulted = s.faulted := rfl
@[simp] theorem bkpSet_cfg (k : Byte) (w : Word) (s : State) : (bkpSet k w s).cfg = s.cfg := rfl
@[simp] theorem bkpSet_cmdC (k : Byte) (w : Word) (s : State) : (bkpSet k w s).cmdC = s.cmdC := rfl
@[simp] theorem bkpSet_cmdP (k : Byte) (w : Word) (s : State) : (bkpSet k w s).cmdP = s.cmdP := rfl
@[simp] theorem bkpSet_sched (k : Byte) (w : Word) (s : State) : (bkpSet k w s).sched = s.sched := rfl
@[simp] theorem bkpSet_rspC (k : Byte) (w : Word) (s : State) : (bkpSet k w s).rspC = s.rspC := rfl
@[simp] theorem bkpSet_rspP (k : Byte) (w : Word) (s : State) : (bkpSet k w s).rspP = s.rspP := rfl
@[simp] theorem bkpSet_draws (k : Byte) (w : Word) (s : State) : (bkpSet k w s).draws = s.draws := rfl

/-! ### dropMove -/

@[simp] theorem dropMove_rings (s : State) : (dropMove s).rings = s.rings := rfl
@[simp] theorem dropMove_tick (s : State) : (dropMove s).tick = s.tick := rfl
@[simp] theorem dropMove_rtc (s : State) : (dropMove s).rtc = s.rtc := rfl
@[simp] theorem dropMove_pwr (s : State) : (dropMove s).pwr = s.pwr := rfl
@[simp] theorem dropMove_clk (s : State) : (dropMove s).clk = s.clk := rfl
@[simp] theorem dropMove_seq (s : State) : (dropMove s).seq = s.seq := rfl
@[simp] theorem dropMove_acc (s : State) : (dropMove s).acc = s.acc := rfl
@[simp] theorem dropMove_faulted (s : State) : (dropMove s).faulted = s.faulted := rfl
@[simp] theorem dropMove_cfg (s : State) : (dropMove s).cfg = s.cfg := rfl
@[simp] theorem dropMove_cmdC (s : State) : (dropMove s).cmdC = s.cmdC := rfl
@[simp] theorem dropMove_cmdP (s : State) : (dropMove s).cmdP = s.cmdP := rfl
@[simp] theorem dropMove_sched (s : State) : (dropMove s).sched = s.sched.tail := rfl
@[simp] theorem dropMove_rspC (s : State) : (dropMove s).rspC = s.rspC := rfl
@[simp] theorem dropMove_rspP (s : State) : (dropMove s).rspP = s.rspP := rfl
@[simp] theorem dropMove_draws (s : State) : (dropMove s).draws = s.draws := rfl

end Sys2Proof.Machine
end

