-- ==== Sys2Proof/Laws/Memory.lean ====
section
/-! SUPPORT. Ring storage: a read after a write, and the canonical form kept by every write. -/

namespace Sys2Proof.Machine

theorem Memory.read_of_all_gt (m : Memory) (k : Nat) (h : m.all (fun cell => decide (k < cell.1)) = true) :
    Memory.read m k = Memory.unlisted := by
  induction m with
  | nil => rfl
  | cons cell m ih =>
    obtain ⟨a, b⟩ := cell
    simp only [List.all_cons, Bool.and_eq_true, decide_eq_true_eq] at h
    have hne : a ≠ k := by omega
    simp only [Memory.read, if_neg hne]
    exact ih (by simpa using h.2)

theorem Memory.all_gt_trans {m : Memory} {a k : Nat} (hka : k ≤ a)
    (h : m.all (fun cell => decide (a < cell.1)) = true) : m.all (fun cell => decide (k < cell.1)) = true := by
  simp only [List.all_eq_true, decide_eq_true_eq] at h ⊢
  intro x hx
  have := h x hx
  omega

theorem Memory.wf_cons {a : Nat} {b : Byte} {m : Memory} :
    Memory.wf ((a, b) :: m) = true ↔
      m.all (fun cell => decide (a < cell.1)) = true ∧ b ≠ Memory.unlisted ∧ m.wf = true := by
  simp [Memory.wf, and_assoc]

/-- Reading the slot that was written gives the byte written. -/
theorem Memory.read_write_same (m : Memory) (k : Nat) (v : Byte) (hm : m.wf = true) :
    (m.write k v).read k = v := by
  induction m with
  | nil =>
    by_cases hv : v = Memory.unlisted <;> simp [Memory.write, Memory.read, hv]
  | cons cell m ih =>
    obtain ⟨a, b⟩ := cell
    obtain ⟨hall, _, hwf⟩ := Memory.wf_cons.mp hm
    by_cases h1 : k < a
    · by_cases hv : v = Memory.unlisted
      · have hne : a ≠ k := by omega
        simp only [Memory.write, if_pos h1, if_pos hv, Memory.read, if_neg hne]
        rw [Memory.read_of_all_gt m k (Memory.all_gt_trans (by omega) hall), hv]
      · simp [Memory.write, h1, hv, Memory.read]
    · by_cases h2 : k = a
      · subst h2
        by_cases hv : v = Memory.unlisted
        · simp only [Memory.write, if_neg h1, if_true, if_pos hv]
          rw [Memory.read_of_all_gt m k hall, hv]
        · simp [Memory.write, hv, Memory.read]
      · have hne : a ≠ k := fun h => h2 h.symm
        simp only [Memory.write, if_neg h1, if_neg h2, Memory.read, if_neg hne]
        exact ih hwf

/-- Reading another slot gives what it gave. -/
theorem Memory.read_write_other (m : Memory) (k j : Nat) (v : Byte) (hm : m.wf = true) (hjk : j ≠ k) :
    (m.write k v).read j = m.read j := by
  induction m with
  | nil =>
    have hkj : k ≠ j := fun h => hjk h.symm
    by_cases hv : v = Memory.unlisted <;> simp [Memory.write, Memory.read, hv, hkj]
  | cons cell m ih =>
    obtain ⟨a, b⟩ := cell
    obtain ⟨hall, _, hwf⟩ := Memory.wf_cons.mp hm
    have hkj : k ≠ j := fun h => hjk h.symm
    by_cases h1 : k < a
    · by_cases hv : v = Memory.unlisted <;> simp [Memory.write, h1, hv, Memory.read, hkj]
    · by_cases h2 : k = a
      · subst h2
        by_cases hv : v = Memory.unlisted <;> simp [Memory.write, hv, Memory.read, hkj]
      · simp only [Memory.write, if_neg h1, if_neg h2, Memory.read]
        rw [ih hwf]

/-- A write lists no cell but the one written and those listed before. -/
theorem Memory.mem_write (m : Memory) (k : Nat) (v : Byte) (cell : Host.Cell) (h : cell ∈ m.write k v) :
    cell = (k, v) ∨ cell ∈ m := by
  induction m with
  | nil =>
    by_cases hv : v = Memory.unlisted
    · simp [Memory.write, hv] at h
    · simpa [Memory.write, hv] using h
  | cons c m ih =>
    obtain ⟨a, b⟩ := c
    simp only [Memory.write] at h
    split at h
    · split at h
      · exact .inr h
      · exact List.mem_cons.mp h
    · split at h
      · split at h
        · exact .inr (List.mem_cons_of_mem _ h)
        · exact (List.mem_cons.mp h).imp id (List.mem_cons_of_mem _)
      · rcases List.mem_cons.mp h with h | h
        · exact .inr (h ▸ List.mem_cons_self)
        · exact (ih h).imp id (List.mem_cons_of_mem _)

/-- What holds of every slot listed and of the slot written holds of every slot listed after the write. -/
theorem Memory.all_write (m : Memory) (k : Nat) (v : Byte) (p : Nat → Bool) (hk : p k = true)
    (h : m.all (fun cell => p cell.1) = true) : (m.write k v).all (fun cell => p cell.1) = true := by
  rw [List.all_eq_true] at h ⊢
  intro cell hc
  rcases Memory.mem_write m k v cell hc with rfl | hc
  · exact hk
  · exact h cell hc

/-- A write keeps the canonical form. -/
theorem Memory.wf_write (m : Memory) (k : Nat) (v : Byte) (hm : m.wf = true) : (m.write k v).wf = true := by
  induction m with
  | nil => by_cases hv : v = Memory.unlisted <;> simp [Memory.write, Memory.wf, hv]
  | cons cell m ih =>
    obtain ⟨a, b⟩ := cell
    obtain ⟨hall, hb, hwf⟩ := Memory.wf_cons.mp hm
    by_cases h1 : k < a
    · by_cases hv : v = Memory.unlisted
      · simpa [Memory.write, h1, hv] using hm
      · simp only [Memory.write, if_pos h1, if_neg hv]
        refine Memory.wf_cons.mpr ⟨?_, hv, hm⟩
        simp only [List.all_cons, Bool.and_eq_true, decide_eq_true_eq]
        exact ⟨h1, Memory.all_gt_trans (by omega) hall⟩
    · by_cases h2 : k = a
      · subst h2
        by_cases hv : v = Memory.unlisted
        · simpa [Memory.write, hv] using hwf
        · simp only [Memory.write, if_neg h1, if_true, if_neg hv]
          exact Memory.wf_cons.mpr ⟨hall, hv, hwf⟩
      · simp only [Memory.write, if_neg h1, if_neg h2]
        exact Memory.wf_cons.mpr ⟨Memory.all_write m k v (fun j => decide (a < j)) (by simp; omega) hall, hb, ih hwf⟩

/-- Two storages in canonical form that read alike are the same data. -/
theorem Memory.ext_of_read {m m' : Memory} (hm : m.wf = true) (hm' : m'.wf = true)
    (h : ∀ k, m.read k = m'.read k) : m = m' := by
  induction m generalizing m' with
  | nil =>
    cases m' with
    | nil => rfl
    | cons cell m' =>
      obtain ⟨a, b⟩ := cell
      have hb := (Memory.wf_cons.mp hm').2.1
      have := h a
      simp [Memory.read] at this
      exact absurd this.symm hb
  | cons cell m ih =>
    obtain ⟨a, b⟩ := cell
    obtain ⟨hall, hb, hwf⟩ := Memory.wf_cons.mp hm
    cases m' with
    | nil =>
      have := h a
      simp [Memory.read] at this
      exact absurd this hb
    | cons cell' m' =>
      obtain ⟨a', b'⟩ := cell'
      obtain ⟨hall', hb', hwf'⟩ := Memory.wf_cons.mp hm'
      have haa : a = a' := by
        rcases Nat.lt_trichotomy a a' with hlt | heq | hgt
        · have h0 := h a
          have hne : a' ≠ a := by omega
          simp only [Memory.read, if_true, if_neg hne] at h0
          rw [Memory.read_of_all_gt m' a (Memory.all_gt_trans (by omega) hall')] at h0
          exact absurd h0 hb
        · exact heq
        · have h0 := h a'
          have hne : a ≠ a' := by omega
          simp only [Memory.read, if_true, if_neg hne] at h0
          rw [Memory.read_of_all_gt m a' (Memory.all_gt_trans (by omega) hall)] at h0
          exact absurd h0.symm hb'
      subst haa
      have hbb : b = b' := by simpa [Memory.read] using h a
      subst hbb
      have hrest : ∀ k, Memory.read m k = Memory.read m' k := by
        intro k
        by_cases hk : a = k
        · subst hk
          rw [Memory.read_of_all_gt m a hall, Memory.read_of_all_gt m' a hall']
        · simpa [Memory.read, hk] using h k
      rw [ih hwf hwf' hrest]

end Sys2Proof.Machine
end

