-- ==== Sys2Proof/Laws/Ops.lean ====
section
/-! SUPPORT. One lemma per shared operation: everything it can do, said once, for proofs to cite. -/

namespace Sys2Proof.Machine

/-! ### The sequencer -/

/-- A command on an idle port C: its first step, or ILLEGAL. -/
theorem onPortC_idle {ins : Instr} {legal : Bool} {first : StepName} {body : Flight → State → Out} {s : State}
    (h : s.seq = .idle) :
    onPortC ins legal first body s =
      if legal then
        body (Flight.start ins first) { s with seq := .busy (Flight.start ins first), rspC := none }
      else .next (illegalC s) := by
  simp only [onPortC, h]

/-- The command in flight goes on. -/
theorem onPortC_busy {ins : Instr} {legal : Bool} {first : StepName} {body : Flight → State → Out} {s : State}
    {f : Flight} (h : s.seq = .busy f) (hf : f.ins = ins) : onPortC ins legal first body s = body f s := by
  simp only [onPortC, h, if_pos hf]

/-- Another command is turned away while one is in flight. -/
theorem onPortC_occupied {ins : Instr} {legal : Bool} {first : StepName} {body : Flight → State → Out} {s : State}
    {f : Flight} (h : s.seq = .busy f) (hf : f.ins ≠ ins) :
    onPortC ins legal first body s = .refused .portCBusy := by
  simp only [onPortC, h, if_neg hf]

/-- A command in flight, as statements place it. -/
@[simp] theorem onPortC_atStep {ins : Instr} {legal : Bool} {first : StepName} {body : Flight → State → Out}
    {s : State} {st : StepName} {h : Nat} {v : Byte} {n : Word} {c : ClkId} :
    onPortC ins legal first body (atStep ins st h v n c s) =
      body ⟨ins, st, h, v, n, c⟩ (atStep ins st h v n c s) :=
  onPortC_busy rfl rfl

/-- What a step comes to, from its action. -/
theorem andThen_next {a : Act} {s t : State} {k : State → State} (h : a.andThen s k = .next t) :
    (a = .held ∧ t = s) ∨ ∃ t', a = .done t' ∧ t = k t' := by
  cases a with
  | held => exact .inl ⟨rfl, by simpa [Act.andThen] using h.symm⟩
  | done t' => exact .inr ⟨t', rfl, by simpa [Act.andThen] using h.symm⟩
  | faults r => simp [Act.andThen] at h

/-! ### The RTC and clock actions -/

/-- `Arm` never holds: it faults with `RTC_SRC = 0`, else writes the RTC domain alone. -/
theorem arm_cases (u : TimeUnit) (d : Word) (s : State) :
    (s.rtc.src = .none ∧ arm u d s = .faults .rtcNotInitialised) ∨
      (s.rtc.src ≠ .none ∧ arm u d s = .done { s with rtc := armRtc u d s.rtc }) := by
  by_cases h : s.rtc.src = .none
  · exact .inl ⟨h, by simp [arm, h]⟩
  · exact .inr ⟨h, by simp [arm, h]⟩

@[simp] theorem armRtc_src (u : TimeUnit) (d : Word) (r : Rtc) : (armRtc u d r).src = r.src := by
  cases u <;> simp only [armRtc] <;> split <;> rfl

@[simp] theorem armRtc_cnt (u : TimeUnit) (d : Word) (r : Rtc) : (armRtc u d r).cnt = r.cnt := by
  cases u <;> simp only [armRtc] <;> split <;> rfl

@[simp] theorem armRtc_bkp (u : TimeUnit) (d : Word) (r : Rtc) : (armRtc u d r).bkp = r.bkp := by
  cases u <;> simp only [armRtc] <;> split <;> rfl

@[simp] theorem rtcTick_src (r : Rtc) : (rtcTick r).src = r.src := by
  simp only [rtcTick, timerMatch, alarmMatch]; split <;> split <;> rfl

@[simp] theorem rtcTick_cnt (r : Rtc) : (rtcTick r).cnt = r.cnt + 1#64 := by
  simp only [rtcTick, timerMatch, alarmMatch]; split <;> split <;> rfl

@[simp] theorem rtcTick_bkp (r : Rtc) : (rtcTick r).bkp = r.bkp := by
  simp only [rtcTick, timerMatch, alarmMatch]; split <;> split <;> rfl

@[simp] theorem rtcTick_alrEn (r : Rtc) : (rtcTick r).alrEn = r.alrEn := by
  simp only [rtcTick, timerMatch, alarmMatch]; split <;> split <;> rfl

@[simp] theorem rtcTick_alrIe (r : Rtc) : (rtcTick r).alrIe = r.alrIe := by
  simp only [rtcTick, timerMatch, alarmMatch]; split <;> split <;> rfl

@[simp] theorem rtcTick_alrTgt (r : Rtc) : (rtcTick r).alrTgt = r.alrTgt := by
  simp only [rtcTick, timerMatch, alarmMatch]; split <;> split <;> rfl

@[simp] theorem rtcTick_wutEn (r : Rtc) : (rtcTick r).wutEn = r.wutEn := by
  simp only [rtcTick, timerMatch, alarmMatch]; split <;> split <;> rfl

@[simp] theorem rtcTick_wutIe (r : Rtc) : (rtcTick r).wutIe = r.wutIe := by
  simp only [rtcTick, timerMatch, alarmMatch]; split <;> split <;> rfl

@[simp] theorem rtcTick_wutPeriod (r : Rtc) : (rtcTick r).wutPeriod = r.wutPeriod := by
  simp only [rtcTick, timerMatch, alarmMatch]; split <;> split <;> rfl

/-- The alarm flag after a millisecond. -/
theorem rtcTick_alrF (r : Rtc) : (rtcTick r).alrF = (r.alrF || (r.alrEn && decide (r.cnt + 1#64 = r.alrTgt))) := by
  simp only [rtcTick, timerMatch, alarmMatch]
  cases h : (r.alrEn && decide (r.cnt + 1#64 = r.alrTgt)) <;> simp only [Bool.false_eq_true, if_false, if_true] <;>
    split <;> simp_all

/-- The wake-up timer's flag after a millisecond. -/
theorem rtcTick_wutF (r : Rtc) : (rtcTick r).wutF = (r.wutF || (r.wutEn && decide (r.cnt + 1#64 = r.wutNext))) := by
  simp only [rtcTick, timerMatch, alarmMatch]
  cases h : (r.alrEn && decide (r.cnt + 1#64 = r.alrTgt)) <;> simp only [Bool.false_eq_true, if_false, if_true] <;>
    split <;> simp_all

/-- The wake-up timer's next match after a millisecond. -/
theorem rtcTick_wutNext (r : Rtc) :
    (rtcTick r).wutNext =
      if r.wutEn = true ∧ r.cnt + 1#64 = r.wutNext then r.cnt + 1#64 + r.wutPeriod.setWidth 64 else r.wutNext := by
  simp only [rtcTick, timerMatch, alarmMatch]
  cases h : (r.alrEn && decide (r.cnt + 1#64 = r.alrTgt)) <;> simp only [Bool.false_eq_true, if_false, if_true] <;>
    split <;> simp_all

/-- Everything a step of `ClockApply` or `ClockDown` can do. -/
theorem clockStep_cases (c : ClkId) (k : KStep) (s : State) :
    (k = .k1 ∧ c = clkNone ∧ clockStep c k s = .faults .noClockRecorded) ∨
      (k = .k1 ∧ c ≠ clkNone ∧ clockStep c k s = .done { s with clk := { s.clk with wait := .osc } }) ∨
      ((k = .k2 ∨ k = .k3 ∨ k = .k4) ∧ s.clk.wait ≠ .none ∧ clockStep c k s = .held) ∨
      (k = .k2 ∧ s.clk.wait = .none ∧ clockStep c k s = .done { s with clk := { s.clk with wait := .src } }) ∨
      (k = .k3 ∧ s.clk.wait = .none ∧ clockStep c k s = .done { s with clk := { s.clk with wait := .sw } }) ∨
      (k = .k4 ∧ s.clk.wait = .none ∧ clockStep c k s = .done { s with clk := { s.clk with active := c } }) ∨
      (k = .k5 ∧ clockStep c k s =
        .done { s with clk := { s.clk with tickCfg := c }, pwr := { s.pwr with tickie := true } }) ∨
      (k = .k6 ∧ clockStep c k s = .done { s with clk := { s.clk with current := c } }) := by
  cases k <;> by_cases h1 : c = clkNone <;> by_cases h2 : s.clk.wait = .none <;> simp [clockStep, clockHold, h1, h2]

/-! ### Rings -/

theorem ringAt_setRing_same (i : Nat) (r : Ring) (s : State) (h : i < s.rings.length) :
    ringAt i (setRing i r s) = r := by
  simp [ringAt, setRing, List.getD, h]

theorem ringAt_setRing_other (i j : Nat) (r : Ring) (s : State) (h : j ≠ i) :
    ringAt j (setRing i r s) = ringAt j s := by
  simp [ringAt, setRing, List.getD, h.symm]

/-- Every instance that exists is as `Ring.ok` says. -/
theorem ringAt_ok {s : State} (h : ringsOk s = true) {i : Nat} (hi : i < s.cfg.nRb) :
    (ringAt i s).ok s.cfg.cap = true := by
  simp only [ringsOk, Bool.and_eq_true, decide_eq_true_eq, List.all_eq_true] at h
  have hl : i < s.rings.length := by omega
  have : ringAt i s = s.rings[i] := by simp [ringAt, List.getD, hl]
  rw [this]
  exact h.2 _ (List.getElem_mem hl)

theorem Ring.ok_iff (cap : Nat) (r : Ring) :
    r.ok cap = true ↔
      r.head < cap ∧ r.tail < cap ∧ r.buf.wf = true ∧ r.buf.all (fun cell => decide (cell.1 < cap)) = true := by
  simp [Ring.ok, and_assoc]

/-- Replacing a ring by one as `Ring.ok` says keeps `ringsOk`. -/
theorem ringsOk_setRing {s : State} (h : ringsOk s = true) (i : Nat) (r : Ring) (hr : r.ok s.cfg.cap = true) :
    ringsOk (setRing i r s) = true := by
  simp only [ringsOk, Bool.and_eq_true, decide_eq_true_eq, List.all_eq_true] at h ⊢
  refine ⟨by simpa [setRing] using h.1, ?_⟩
  intro x hx
  rcases List.mem_or_eq_of_mem_set hx with hx | hx
  · exact h.2 x hx
  · subst hx; exact hr

theorem advance_lt {cap : Nat} (c : Nat) (h : 2 ≤ cap) : advance cap c < cap := Nat.mod_lt _ (by omega)

/-- Everything `RB_INSERT`'s store can do: nothing on a full ring, else one byte and `HEAD` of one ring. -/
theorem insertByte_cases (i : Nat) (b : Byte) (s : State) :
    (advance s.cfg.cap (ringAt i s).head = (ringAt i s).tail ∧ insertByte i b s = s) ∨
      (advance s.cfg.cap (ringAt i s).head ≠ (ringAt i s).tail ∧
        (i < s.rings.length → insertByte i b s =
          setRing i ⟨advance s.cfg.cap (ringAt i s).head, (ringAt i s).tail,
            (ringAt i s).buf.write (ringAt i s).head b⟩ s)) := by
  by_cases h : advance s.cfg.cap (ringAt i s).head = (ringAt i s).tail
  · exact .inl ⟨h, by simp [insertByte, h]⟩
  · refine .inr ⟨h, fun hi => ?_⟩
    simp only [insertByte, ne_eq, h, not_false_eq_true, if_true, setHead, bufWrite]
    rw [ringAt_setRing_same _ _ _ hi]
    simp [setRing]

/-! ### The wait step and the resets -/

@[simp] theorem resetBlock_cfg (d : Draw) (s : State) : (resetBlock d s).cfg = s.cfg := rfl
@[simp] theorem resetBlock_acc (d : Draw) (s : State) : (resetBlock d s).acc = s.acc := rfl
@[simp] theorem resetBlock_faulted (d : Draw) (s : State) : (resetBlock d s).faulted = s.faulted := rfl
@[simp] theorem resetBlock_seq (d : Draw) (s : State) : (resetBlock d s).seq = .idle := rfl
@[simp] theorem standbyExit_bkp (s : State) : (standbyExit s).rtc.bkp = s.rtc.bkp := rfl
@[simp] theorem standbyExit_cnt (s : State) : (standbyExit s).rtc.cnt = s.rtc.cnt := rfl
@[simp] theorem standbyExit_src (s : State) : (standbyExit s).rtc.src = s.rtc.src := rfl

/-! ### Steps of the machine -/

/-- A step that answers a next state: the agent's own step did, or its fault was recorded. -/
theorem machineStep_next {s t : State} (h : step s = .next t) :
    s.faulted = none ∧
      (agentTurn (nextMove s) (dropMove s) = .next t ∨
        ∃ r, agentTurn (nextMove s) (dropMove s) = .fault r ∧ t = { s with faulted := some r }) := by
  unfold step machineStep at h
  split at h
  · cases h
  · rename_i hf
    refine ⟨hf, ?_⟩
    cases ha : agentTurn (nextMove s) (dropMove s) with
    | next u => rw [ha] at h; simp only [recordFault] at h; cases h; exact .inl rfl
    | fault r => rw [ha] at h; simp only [recordFault] at h; cases h; exact .inr ⟨r, rfl, rfl⟩
    | refused r => rw [ha] at h; simp [recordFault] at h

/-- Everything port C's turn can do. -/
theorem portCTurn_cases (s : State) :
    (∃ f, s.seq = .busy f ∧ portCTurn s = exec f.ins s) ∨
      (s.seq = .idle ∧ s.cmdC = [] ∧ portCTurn s = .next s) ∨
      (∃ w rest, s.seq = .idle ∧ s.cmdC = w :: rest ∧ portCTurn s = acceptC w { s with cmdC := rest }) := by
  cases hs : s.seq with
  | busy f => exact .inl ⟨f, rfl, by simp only [portCTurn, hs]⟩
  | idle =>
    cases hc : s.cmdC with
    | nil => exact .inr (.inl ⟨rfl, rfl, by simp only [portCTurn, hs, hc]⟩)
    | cons w rest => exact .inr (.inr ⟨w, rest, rfl, rfl, by simp only [portCTurn, hs, hc]⟩)

/-- A run of `k + l` steps is a run of `k` steps and then one of `l`. -/
theorem run_add (k l : Nat) (s t : State) (h : run k s = .next t) : run (k + l) s = run l t := by
  induction k generalizing s with
  | zero => simp only [run] at h; cases h; simp
  | succ k ih =>
    rw [Nat.succ_add]
    simp only [run] at h ⊢
    cases hs : step s with
    | next u => rw [hs] at h; simp only at h ⊢; exact ih u h
    | fault r => rw [hs] at h; simp at h
    | refused r => rw [hs] at h; simp at h

/-- What every step keeps, every run keeps. -/
theorem run_keeps {P : State → Prop} (hstep : ∀ s t, P s → step s = .next t → P t) (k : Nat) (s t : State)
    (hs : P s) (h : run k s = .next t) : P t := by
  induction k generalizing s with
  | zero => simp only [run] at h; cases h; exact hs
  | succ k ih =>
    simp only [run] at h
    cases hu : step s with
    | next u => rw [hu] at h; exact ih u (hstep s u hs hu) h
    | fault r => rw [hu] at h; simp at h
    | refused r => rw [hu] at h; simp at h

end Sys2Proof.Machine
end

