-- ==== Sys2Proof/Laws/Operands.lean ====
section
/-! SUPPORT. The operand checks the machine makes are those of WellFormed.lean, one lemma per kind of operand. -/

namespace Sys2Proof.Machine

theorem ringLegal_eq (i b : Byte) (s : State) :
    ringLegal i s = (Instr.rbInsert i b).wellFormed s.cfg ∧ ringLegal i s = (Instr.rbAvail i).wellFormed s.cfg ∧
      ringLegal i s = (Instr.rbRead i).wellFormed s.cfg ∧ ringLegal i s = (Instr.rbPeek i).wellFormed s.cfg ∧
      ringLegal i s = (Instr.rbRdUntil i b).wellFormed s.cfg ∧ ringLegal i s = (Instr.rbInit i).wellFormed s.cfg :=
  ⟨rfl, rfl, rfl, rfl, rfl, rfl⟩

theorem bkpLegal_eq (k : Byte) (w : Word) (p : Params) :
    bkpLegal k = (Instr.bkpRead k).wellFormed p ∧ bkpLegal k = (Instr.bkpWrite k w).wellFormed p := ⟨rfl, rfl⟩

theorem pinLegal_eq (pin : Byte) (p : Params) : pinLegal pin = (Instr.pmStandbyPin pin).wellFormed p := rfl

theorem clkLegal_eq (c : Byte) (s : State) : clkLegal c s = (Instr.clkSelect c).wellFormed s.cfg := rfl

theorem rtcSourceLegal_eq (src : Byte) (p : Params) : rtcSourceLegal src = (Instr.rtcInit src).wellFormed p := by
  by_cases h1 : src = 1#8 <;> by_cases h2 : src = 2#8 <;> simp [rtcSourceLegal, rtcSource, Instr.wellFormed, h1, h2]

theorem mem_plainCsrs (n : Byte) : n ∈ plainCsrs ↔ n.toNat ≤ 0x0B := by
  revert n; decide

theorem csrLegal_eq (n b : Byte) (s : State) : csrLegal n b s = (Instr.csrRead n b).wellFormed s.cfg := by
  have hp := mem_plainCsrs n
  by_cases h : n = 0x10#8 ∨ n = 0x11#8
  · have hn : ¬ n.toNat ≤ 0x0B := by rcases h with rfl | rfl <;> decide
    have hm : n ∈ ringCsrs := by rcases h with rfl | rfl <;> decide
    simp [csrLegal, Instr.wellFormed, h, hp, hn, hm, ringLegal]
  · have hm : n ∉ ringCsrs := by simpa [ringCsrs] using h
    simp [csrLegal, Instr.wellFormed, h, hp, hm]

end Sys2Proof.Machine
end

