-- ==== Sys2Proof/Laws/PerInstr.lean ====
section
/-! SUPPORT. Statements made per command, one lemma a constructor. `EncodeFields`: the word of a command carries its
opcode, and the opcode map gives that opcode the command's own port (R90, R98, R99). -/

namespace Sys2Proof.Laws.EncodeFields

/-- The word's `op` field is the command's opcode, and that opcode is legal on the command's port alone. -/
def Statement (ins : Instr) : Prop :=
  opField (encode ins) = ins.opcode ∧ portOf (opField (encode ins)) = some ins.port

theorem csrRead (n b : Byte) : Statement (.csrRead n b) := by simp [Statement, opField_encode, Instr.opcode, portOf, Instr.port]
theorem millis : Statement .millis := by simp [Statement, opField_encode, Instr.opcode, portOf, Instr.port]
theorem rbInsert (i b : Byte) : Statement (.rbInsert i b) := by simp [Statement, opField_encode, Instr.opcode, portOf, Instr.port]
theorem rbAvail (i : Byte) : Statement (.rbAvail i) := by simp [Statement, opField_encode, Instr.opcode, portOf, Instr.port]
theorem rbRead (i : Byte) : Statement (.rbRead i) := by simp [Statement, opField_encode, Instr.opcode, portOf, Instr.port]
theorem rbPeek (i : Byte) : Statement (.rbPeek i) := by simp [Statement, opField_encode, Instr.opcode, portOf, Instr.port]
theorem rbRdUntil (i t : Byte) : Statement (.rbRdUntil i t) := by simp [Statement, opField_encode, Instr.opcode, portOf, Instr.port]
theorem rbInit (i : Byte) : Statement (.rbInit i) := by simp [Statement, opField_encode, Instr.opcode, portOf, Instr.port]
theorem pmSleep (u : TimeUnit) (d : Word) : Statement (.pmSleep u d) := by simp [Statement, opField_encode, Instr.opcode, portOf, Instr.port]
theorem pmLpSleep (u : TimeUnit) (d : Word) : Statement (.pmLpSleep u d) := by simp [Statement, opField_encode, Instr.opcode, portOf, Instr.port]
theorem pmStop (u : TimeUnit) (d : Word) : Statement (.pmStop u d) := by simp [Statement, opField_encode, Instr.opcode, portOf, Instr.port]
theorem pmLpStop (u : TimeUnit) (d : Word) : Statement (.pmLpStop u d) := by simp [Statement, opField_encode, Instr.opcode, portOf, Instr.port]
theorem pmStopIrq : Statement .pmStopIrq := by simp [Statement, opField_encode, Instr.opcode, portOf, Instr.port]
theorem pmStandby : Statement .pmStandby := by simp [Statement, opField_encode, Instr.opcode, portOf, Instr.port]
theorem pmStandbySec (d : Word) : Statement (.pmStandbySec d) := by simp [Statement, opField_encode, Instr.opcode, portOf, Instr.port]
theorem pmStandbyPin (p : Byte) : Statement (.pmStandbyPin p) := by simp [Statement, opField_encode, Instr.opcode, portOf, Instr.port]
theorem rtcInit (src : Byte) : Statement (.rtcInit src) := by simp [Statement, opField_encode, Instr.opcode, portOf, Instr.port]
theorem rtcArmSec (d : Word) : Statement (.rtcArmSec d) := by simp [Statement, opField_encode, Instr.opcode, portOf, Instr.port]
theorem rtcArmMs (d : Word) : Statement (.rtcArmMs d) := by simp [Statement, opField_encode, Instr.opcode, portOf, Instr.port]
theorem bkpRead (k : Byte) : Statement (.bkpRead k) := by simp [Statement, opField_encode, Instr.opcode, portOf, Instr.port]
theorem bkpWrite (k : Byte) (w : Word) : Statement (.bkpWrite k w) := by simp [Statement, opField_encode, Instr.opcode, portOf, Instr.port]
theorem clkSelect (c : Byte) : Statement (.clkSelect c) := by simp [Statement, opField_encode, Instr.opcode, portOf, Instr.port]
theorem clkCurrent : Statement .clkCurrent := by simp [Statement, opField_encode, Instr.opcode, portOf, Instr.port]

end Sys2Proof.Laws.EncodeFields
end

