-- ==== Sys2Proof/Tests/Slice0.lean ====
section
/-! SUPPORT. Tests of the model, and for every obligation with hypotheses a state that meets them all. The values
expected are those of spec/95_test_vectors.md (V.., T.., programs A to D), of the rules' own examples, or worked out by
hand from a rule. Each test is about one step. -/

namespace Sys2Proof.Tests

open Sys2Proof Sys2Proof.Machine

/-! ### Helpers -/

/-- The outcome is a next state that meets `p`. -/
def okAnd (o : Out) (p : State → Bool) : Bool :=
  match o with
  | .next t => p t
  | .fault _ => false
  | .refused _ => false

/-- The outcome is that fault. -/
def faultsWith (o : Out) (r : Fault) : Bool :=
  match o with
  | .next _ => false
  | .fault q => decide (q = r)
  | .refused _ => false

/-- The outcome is that refusal. -/
def refusedWith (o : Out) (r : Refusal) : Bool :=
  match o with
  | .next _ => false
  | .fault _ => false
  | .refused q => decide (q = r)

theorem next_of {o : Out} {P : State → Prop} [∀ t, Decidable (P t)] (h : okAnd o (fun t => decide (P t)) = true) :
    ∃ t, o = .next t ∧ P t := by
  cases o with
  | next t => exact ⟨t, rfl, by simpa [okAnd] using h⟩
  | fault r => simp [okAnd] at h
  | refused r => simp [okAnd] at h

theorem next_next_of {o : Out} {f : State → Out} {P : State → Prop} [∀ t, Decidable (P t)]
    (h : okAnd o (fun u => okAnd (f u) (fun t => decide (P t))) = true) :
    ∃ u t, o = .next u ∧ f u = .next t ∧ P t := by
  cases o with
  | next u =>
    obtain ⟨t, h1, h2⟩ := next_of (o := f u) (P := P) (by simpa [okAnd] using h)
    exact ⟨u, t, rfl, h1, h2⟩
  | fault r => simp [okAnd] at h
  | refused r => simp [okAnd] at h

theorem fault_of {o : Out} {r : Fault} (h : faultsWith o r = true) : o = .fault r := by
  cases o with
  | next t => simp [faultsWith] at h
  | fault q => simpa [faultsWith] using h
  | refused q => simp [faultsWith] at h

theorem refused_of {o : Out} {r : Refusal} (h : refusedWith o r = true) : o = .refused r := by
  cases o with
  | next t => simp [refusedWith] at h
  | fault q => simp [refusedWith] at h
  | refused q => simpa [refusedWith] using h

/-- The response of port C is `(OK, v)`. -/
def answers (v : Word) (t : State) : Bool := decide (t.rspC = some ⟨.ok, v⟩) && decide (t.seq = .idle)

/-- The "ready state" of the vectors V50 to V68: after `CLK_SELECT 2` and `RTC_INIT 1`. -/
def ready : State :=
  { State.reset with
    clk := ⟨2#8, 2#8, 2#8, .none⟩
    pwr := { State.reset.pwr with tickie := true }
    rtc := { State.reset.rtc with src := .internal, cnt := 1000#64 } }

/-- One ring of capacity 64 with given cursors and storage. -/
def withRing (h t : Nat) (buf : Memory) (s : State) : State := { s with rings := [⟨h, t, buf⟩] }

/-- The ring of T1 after its three inserts. -/
def abc : State := withRing 3 0 [(0, 0x41#8), (1, 0x42#8), (2, 0x43#8)] ready

/-- `s` with the agent `m` moving next. -/
def moving (m : Move) (s : State) : State := { s with sched := [m] }

/-- `s` with the word `w` on port C, which moves next. -/
def onC (w : Cmd) (s : State) : State := { s with cmdC := [w], sched := [.portC] }

/-- `s` with the word `w` on port P, which moves next. -/
def onP (w : Cmd) (s : State) : State := { s with cmdP := [w], sched := [.portP] }

/-- `s` with `ins` in flight at `st` and port C moving next. -/
def inFlight (ins : Instr) (st : StepName) (s : State) : State := moving .portC (atStep ins st 0 0#8 0#32 0#8 s)

/-- Waiting in `StopWait` at E12 of `PM_STOP s, 5`, armed as V50 says. -/
def stopped : State :=
  inFlight (.pmStop .seconds 5#32) .E12
    { ready with
      pwr := { ready.pwr with pstate := .stopWait, gie := false, tickie := false, rtcie := true, deep := true }
      rtc := armRtc .seconds 5#32 ready.rtc }

/-- Waiting in `StandbyWait` at B8 of `PM_STANDBY_PIN 1`. -/
def standing : State :=
  inFlight (.pmStandbyPin 1#8) .B8
    { ready with
      pwr := { ready.pwr with pstate := .standbyWait, tickie := false, deep := true, pdds := true, wupen := 2#3 } }

/-! ### WellFormed: each check refuses an ill-formed term (R100 (c), V41, V62, V73, V76, V92) -/

theorem test_wellFormed_refuses_unknown_csr : (Instr.csrRead 0x0C#8 0#8).wellFormed Params.default = false := by decide
theorem test_wellFormed_refuses_csr_byte : (Instr.csrRead 0x00#8 1#8).wellFormed Params.default = false := by decide
theorem test_wellFormed_refuses_csr_ring : (Instr.csrRead 0x10#8 1#8).wellFormed Params.default = false := by decide
theorem test_wellFormed_refuses_ring_instance :
    (Instr.rbInsert 1#8 0#8).wellFormed Params.default = false ∧
      (Instr.rbAvail 1#8).wellFormed Params.default = false ∧ (Instr.rbRead 1#8).wellFormed Params.default = false ∧
      (Instr.rbPeek 1#8).wellFormed Params.default = false ∧
      (Instr.rbRdUntil 1#8 0#8).wellFormed Params.default = false ∧
      (Instr.rbInit 1#8).wellFormed Params.default = false := by decide
theorem test_wellFormed_refuses_pin : (Instr.pmStandbyPin 3#8).wellFormed Params.default = false := by decide
theorem test_wellFormed_refuses_rtc_source :
    (Instr.rtcInit 0#8).wellFormed Params.default = false ∧ (Instr.rtcInit 3#8).wellFormed Params.default = false := by
  decide
theorem test_wellFormed_refuses_backup_index :
    (Instr.bkpRead 5#8).wellFormed Params.default = false ∧
      (Instr.bkpWrite 5#8 1#32).wellFormed Params.default = false := by decide
theorem test_wellFormed_refuses_clock_id :
    (Instr.clkSelect 3#8).wellFormed Params.default = false ∧
      (Instr.clkSelect clkLp).wellFormed Params.default = false := by decide
theorem test_wellFormed_accepts_last_values :
    (Instr.csrRead 0x11#8 0#8).wellFormed Params.default = true ∧
      (Instr.pmStandbyPin 2#8).wellFormed Params.default = true ∧
      (Instr.bkpRead 4#8).wellFormed Params.default = true ∧
      (Instr.clkSelect 2#8).wellFormed Params.default = true := by decide

/-! ### Decode: one word a constructor, from the table of R98 and the formats of R91 to R96 -/

theorem test_decode_csrRead : decodeTableWord 48 0x011100000000 = some (.csrRead 0x11#8 0#8) := by decide
theorem test_decode_csrRead_byte : decodeTableWord 48 0x011000000001 = some (.csrRead 0x10#8 1#8) := by decide
theorem test_decode_millis : decodeTableWord 48 0x100000000000 = some .millis := by decide
theorem test_decode_rbInsert : decodeTableWord 48 0x200100000099 = some (.rbInsert 1#8 0x99#8) := by decide
theorem test_decode_rbAvail : decodeTableWord 48 0x210100000000 = some (.rbAvail 1#8) := by decide
theorem test_decode_rbRead : decodeTableWord 48 0x220100000000 = some (.rbRead 1#8) := by decide
theorem test_decode_rbPeek : decodeTableWord 48 0x230000000000 = some (.rbPeek 0#8) := by decide
theorem test_decode_rbRdUntil : decodeTableWord 48 0x24000000000A = some (.rbRdUntil 0#8 0x0A#8) := by decide
theorem test_decode_rbInit : decodeTableWord 48 0x250000000000 = some (.rbInit 0#8) := by decide
theorem test_decode_pmSleep : decodeTableWord 48 0x3001000000FA = some (.pmSleep .milliseconds 250#32) := by decide
theorem test_decode_pmLpSleep : decodeTableWord 48 0x310000000002 = some (.pmLpSleep .seconds 2#32) := by decide
theorem test_decode_pmStop : decodeTableWord 48 0x320000000005 = some (.pmStop .seconds 5#32) := by decide
theorem test_decode_pmLpStop : decodeTableWord 48 0x3301000003E8 = some (.pmLpStop .milliseconds 1000#32) := by decide
theorem test_decode_pmStopIrq : decodeTableWord 48 0x340000000000 = some .pmStopIrq := by decide
theorem test_decode_pmStandby : decodeTableWord 48 0x350000000000 = some .pmStandby := by decide
theorem test_decode_pmStandbySec : decodeTableWord 48 0x36000000003C = some (.pmStandbySec 60#32) := by decide
theorem test_decode_pmStandbyPin : decodeTableWord 48 0x370100000000 = some (.pmStandbyPin 1#8) := by decide
theorem test_decode_rtcInit : decodeTableWord 48 0x400200000000 = some (.rtcInit 2#8) := by decide
theorem test_decode_rtcArmSec : decodeTableWord 48 0x4100FFFFFFFF = some (.rtcArmSec 0xFFFFFFFF#32) := by decide
theorem test_decode_rtcArmMs : decodeTableWord 48 0x4200000000FA = some (.rtcArmMs 250#32) := by decide
theorem test_decode_bkpRead : decodeTableWord 48 0x430300000000 = some (.bkpRead 3#8) := by decide
theorem test_decode_bkpWrite : decodeTableWord 48 0x4403CAFE0001 = some (.bkpWrite 3#8 0xCAFE0001#32) := by decide
theorem test_decode_clkSelect : decodeTableWord 48 0x500200000000 = some (.clkSelect 2#8) := by decide
theorem test_decode_clkCurrent : decodeTableWord 48 0x510000000000 = some .clkCurrent := by decide

/-- V80 to V82: the unused opcodes are rejected by name. -/
theorem test_decode_rejects_unknown :
    decode 0x000000000000#48 = .error (.unknownOp 0x00#8) ∧ decode 0xFF0000000000#48 = .error (.unknownOp 0xFF#8) ∧
      decode 0x260000000000#48 = .error (.unknownOp 0x26#8) ∧ decode 0x380000000000#48 = .error (.unknownOp 0x38#8) ∧
      decode 0x450000000000#48 = .error (.unknownOp 0x45#8) ∧ decode 0x520000000000#48 = .error (.unknownOp 0x52#8) :=
  ⟨rfl, rfl, rfl, rfl, rfl, rfl⟩

/-- V83 to V88, V96: a zero bit that is set, format by format. -/
theorem test_decode_rejects_zero_bits :
    decode 0x100100000000#48 = .error (.zeroBitsSet 0x10#8) ∧ decode 0x100000000001#48 = .error (.zeroBitsSet 0x10#8) ∧
      decode 0x210000000001#48 = .error (.zeroBitsSet 0x21#8) ∧
      decode 0x200000000141#48 = .error (.zeroBitsSet 0x20#8) ∧
      decode 0x410100000005#48 = .error (.zeroBitsSet 0x41#8) ∧
      decode 0x300200000005#48 = .error (.zeroBitsSet 0x30#8) ∧
      decode 0x240000000141#48 = .error (.zeroBitsSet 0x24#8) :=
  ⟨rfl, rfl, rfl, rfl, rfl, rfl, rfl⟩

/-! ### The ports -/

/-- V93, V94, V95: wrong port and unknown opcode on port P. -/
theorem test_ports_refuse :
    refusedWith (step (onP 0x220000000000#48 ready)) (.wrongPort 0x22#8) = true ∧
      refusedWith (step (onC 0x200000000041#48 ready)) (.wrongPort 0x20#8) = true ∧
      refusedWith (step (onP 0x000000000000#48 ready)) (.unknownOnPortP 0x00#8) = true := by decide

/-- V92: an operand out of range is answered ILLEGAL. -/
theorem test_ports_illegal :
    okAnd (step (onC 0x220100000000#48 ready)) (fun t => decide (t.rspC = some ⟨.illegal, 0#32⟩)) = true := by decide

/-- V86: a reserved `RB_INSERT` leaves the ring. -/
theorem test_portP_illegal :
    okAnd (step (onP 0x200000000141#48 ready))
      (fun t => decide (t.rspP = some ⟨.illegal, 0#32⟩ ∧ t.rings = ready.rings)) = true := by decide

/-! ### One step of each command -/

/-- V70: `CLKSR` after reset. -/
theorem test_csrRead_clksr : okAnd (exec (.csrRead 0x01#8 0#8) State.reset) (answers 0x00FDFDFF#32) = true := by decide
/-- V42: the high word of a target. -/
theorem test_csrRead_alrtgt_high :
    okAnd (exec (.csrRead 0x06#8 0#8) { ready with rtc := { ready.rtc with alrTgt := 0x00000001000002E8#64 } })
      (answers 0x00000001#32) = true := by decide
/-- R120's example. -/
theorem test_millis : okAnd (exec .millis { ready with tick := 0x000003E8#32 }) (answers 0x000003E8#32) = true := by
  decide
/-- V10: the cursor wraps. -/
theorem test_rbInsert_wraps :
    okAnd (exec (.rbInsert 0#8 0x7A#8) (withRing 63 5 [] ready))
      (fun t => decide ((ringAt 0 t).head = 0 ∧ bufRead 0 63 t = 0x7A#8 ∧ t.rspP = some ⟨.ok, 0#32⟩)) = true := by
  decide
/-- V11: a full ring drops the byte. -/
theorem test_rbInsert_full :
    okAnd (exec (.rbInsert 0#8 0x7B#8) (withRing 4 5 [] ready))
      (fun t => decide (t.rings = [⟨4, 5, []⟩] ∧ t.rspP = some ⟨.ok, 0#32⟩)) = true := by decide
/-- V12: a wrapped count. -/
theorem test_rbAvail_wrapped :
    okAnd (exec (.rbAvail 0#8) (atStep (.rbAvail 0#8) .A2 2 0#8 0#32 0#8 (withRing 2 60 [] ready)))
      (answers 6#32) = true := by decide
/-- V27: the count is of the head read at A1. -/
theorem test_rbAvail_snapshot :
    okAnd (exec (.rbAvail 0#8) (atStep (.rbAvail 0#8) .A2 3 0#8 0#32 0#8 (withRing 4 0 [] ready)))
      (answers 3#32) = true := by decide
/-- V15: the tail wraps. -/
theorem test_rbRead_wraps :
    okAnd (exec (.rbRead 0#8) (atStep (.rbRead 0#8) .D4 1 0x55#8 0#32 0#8 (withRing 1 63 [(63, 0x55#8)] ready)))
      (fun t => answers 0x55#32 t && decide ((ringAt 0 t).tail = 0)) = true := by decide
/-- V26: an insert after D1 is not seen. -/
theorem test_rbRead_snapshot :
    okAnd (exec (.rbRead 0#8) (atStep (.rbRead 0#8) .D2 0 0#8 0#32 0#8 (withRing 1 0 [(0, 0x41#8)] ready)))
      (answers 0xFFFFFFFF#32) = true := by decide
/-- V16: a peek leaves the tail. -/
theorem test_rbPeek :
    okAnd (exec (.rbPeek 0#8) (atStep (.rbPeek 0#8) .P3 3 0#8 0#32 0#8 abc))
      (fun t => answers 0x41#32 t && decide (t.rings = abc.rings)) = true := by decide
/-- V20: a byte before the terminator is emitted and counted. -/
theorem test_rbRdUntil_emits :
    okAnd (exec (.rbRdUntil 0#8 0x0A#8) (atStep (.rbRdUntil 0#8 0x0A#8) .U4 0 0x69#8 1#32 0#8 ready))
      (fun t => decide (t.acc = [(0#8, 0x69#8)] ∧
        t.seq = .busy ⟨.rbRdUntil 0#8 0x0A#8, .U2, 0, 0x69#8, 2#32, 0#8⟩)) = true := by decide
/-- V21: the terminator is not emitted. -/
theorem test_rbRdUntil_ends :
    okAnd (exec (.rbRdUntil 0#8 0x0A#8) (atStep (.rbRdUntil 0#8 0x0A#8) .U4 0 0x0A#8 2#32 0#8 ready))
      (fun t => answers 2#32 t && decide (t.acc = [])) = true := by decide
/-- V25. -/
theorem test_rbInit :
    okAnd (exec (.rbInit 0#8) (withRing 9 4 [(4, 0x31#8)] ready))
      (fun t => answers 0#32 t && decide (t.rings = [⟨0, 0, [(4, 0x31#8)]⟩])) = true := by decide
/-- V53: `PM_SLEEP` waits in `SleepWait` (`PMSR* = 0x11`). -/
theorem test_pmSleep_waits :
    okAnd (exec (.pmSleep .milliseconds 250#32) (atStep (.pmSleep .milliseconds 250#32) .E11 0 0#8 0#32 0#8
        { ready with pwr := { ready.pwr with gie := false, tickie := false, rtcie := true } }))
      (fun t => pmsr t.pwr &&& 0xFFFF8BFF#32 == 0x11#32) = true := by decide
/-- V54: `PM_LPSLEEP` waits with `LPREG`, `REGLPF`, `FLASHPD` (`0x871`). -/
theorem test_pmLpSleep_waits :
    okAnd (exec (.pmLpSleep .seconds 2#32) (atStep (.pmLpSleep .seconds 2#32) .E11 0 0#8 0#32 0#8
        { ready with pwr := { ready.pwr with
          gie := false, tickie := false, rtcie := true, lpreg := true, flashpd := true } }))
      (fun t => pmsr t.pwr &&& 0xFFFF8FFF#32 == 0x871#32) = true := by decide
/-- V50, E4: the alarm 5000 ms ahead, `RTCSR = 0x0D`. -/
theorem test_pmStop_arms :
    okAnd (exec (.pmStop .seconds 5#32) (atStep (.pmStop .seconds 5#32) .E4 0 0#8 0#32 0#8 ready))
      (fun t => decide (t.rtc.alrTgt = 6000#64) && (rtcsr t.rtc == 0x0D#32)) = true := by decide
/-- V50, W7: the alarm disarmed with the answer. -/
theorem test_pmStop_ends :
    okAnd (exec (.pmStop .seconds 5#32) (atStep (.pmStop .seconds 5#32) .W7 0 0#8 0#32 2#8
        { ready with rtc := { armRtc .seconds 5#32 ready.rtc with alrF := true } }))
      (fun t => answers 0#32 t && (rtcsr t.rtc == 0x01#32)) = true := by decide
/-- V51: K4 of the downclock selects `CLK_LP` (`CLKSR = 0x000202FE`). -/
theorem test_pmLpStop_downclocks :
    okAnd (exec (.pmLpStop .milliseconds 1000#32) (atStep (.pmLpStop .milliseconds 1000#32) (.E10 .k4) 0 0#8 0#32 0xFE#8
        { ready with clk := ⟨0xFF#8, 2#8, 2#8, .none⟩ }))
      (fun t => clksr t.clk == 0x000202FE#32) = true := by decide
/-- V51: W2 is held while `REGLPF = 1`. -/
theorem test_pmLpStop_regulator :
    okAnd (exec (.pmLpStop .milliseconds 1000#32) (atStep (.pmLpStop .milliseconds 1000#32) .W2 0 0#8 0#32 0#8
        { ready with pwr := { ready.pwr with reglpf := true } }))
      (fun t => decide (t.seq = .busy ⟨.pmLpStop .milliseconds 1000#32, .W2, 0, 0#8, 0#32, 0#8⟩)) = true := by decide
/-- V58, Q5: `PMSR* = 0x82`. -/
theorem test_pmStopIrq_waits :
    okAnd (exec .pmStopIrq (atStep .pmStopIrq .Q5 0 0#8 0#32 0#8
        { ready with pwr := { ready.pwr with gie := false, tickie := false, deep := true } }))
      (fun t => pmsr t.pwr &&& 0xFFFF8BFF#32 == 0x82#32) = true := by decide
/-- V58, W5: `GIE` set and `EXTPEND` cleared (`0x8C`). -/
theorem test_pmStopIrq_unmasks :
    okAnd (exec .pmStopIrq (atStep .pmStopIrq .W5 0 0#8 0#32 2#8
        { ready with pwr := { ready.pwr with gie := false, deep := true, extpend := true } }))
      (fun t => pmsr t.pwr &&& 0xFFFF8BFF#32 == 0x8C#32) = true := by decide
/-- V67: `PM_STANDBY` goes from B3 to B5. -/
theorem test_pmStandby_has_no_b4 :
    okAnd (exec .pmStandby (atStep .pmStandby .B3 0 0#8 0#32 0#8 ready))
      (fun t => decide (t.seq = .busy ⟨.pmStandby, .B5, 0, 0#8, 0#32, 0#8⟩)) = true := by decide
/-- V61, B4: `ALR_TGT = t + 60000`, `RTCSR = 0x0D`. -/
theorem test_pmStandbySec_arms :
    okAnd (exec (.pmStandbySec 60#32) (atStep (.pmStandbySec 60#32) .B4 0 0#8 0#32 0#8 ready))
      (fun t => decide (t.rtc.alrTgt = 61000#64) && (rtcsr t.rtc == 0x0D#32)) = true := by decide
/-- V63: the fault at B4. -/
theorem test_pmStandbySec_faults :
    faultsWith (exec (.pmStandbySec 60#32) (atStep (.pmStandbySec 60#32) .B4 0 0#8 0#32 0#8 State.reset))
      .rtcNotInitialised = true := by decide
/-- V60, B3 and B4: `0x07004` to `0x00004`, and `WUPEN[1]` (`0x10004`). -/
theorem test_pmStandbyPin_circuits_off :
    okAnd (exec (.pmStandbyPin 1#8) (atStep (.pmStandbyPin 1#8) .B3 0 0#8 0#32 0#8
        { State.reset with pwr := { State.reset.pwr with vrefen := true, tsen := true, pvden := true } }))
      (fun t => pmsr t.pwr &&& 0xFFFFFBFF#32 == 0x00004#32) = true := by decide
theorem test_pmStandbyPin_enables_pin :
    okAnd (exec (.pmStandbyPin 1#8) (atStep (.pmStandbyPin 1#8) .B4 0 0#8 0#32 0#8 State.reset))
      (fun t => pmsr t.pwr &&& 0xFFFFFBFF#32 == 0x10004#32) = true := by decide
/-- V32, V34. -/
theorem test_rtcInit :
    okAnd (exec (.rtcInit 1#8) State.reset) (fun t => answers 0#32 t && (rtcsr t.rtc == 1#32)) = true := by decide
theorem test_rtcInit_illegal :
    okAnd (exec (.rtcInit 3#8) State.reset)
      (fun t => decide (t.rspC = some ⟨.illegal, 0#32⟩ ∧ t.rtc = State.reset.rtc)) = true := by decide
/-- V43: the product is of 64 bits. -/
theorem test_rtcArmSec_wide :
    okAnd (exec (.rtcArmSec 0xFFFFFFFF#32) { ready with rtc := { ready.rtc with cnt := 0#64 } })
      (fun t => answers 0#32 t && decide (t.rtc.alrTgt = 0x000003E7FFFFFC18#64)) = true := by decide
/-- V44: the target wraps modulo 2^64. -/
theorem test_rtcArmSec_wraps :
    okAnd (exec (.rtcArmSec 1#32) { ready with rtc := { ready.rtc with cnt := 0xFFFFFFFFFFFFFE0C#64 } })
      (fun t => decide (t.rtc.alrTgt = 0x00000000000001F4#64)) = true := by decide
/-- V35, V31. -/
theorem test_rtcArmMs :
    okAnd (exec (.rtcArmMs 250#32) ready)
      (fun t => answers 0#32 t && decide (t.rtc.wutPeriod = 250#32 ∧ t.rtc.wutNext = 1250#64) &&
        (rtcsr t.rtc == 0x61#32)) = true := by decide
theorem test_rtcArmMs_faults : faultsWith (exec (.rtcArmMs 0#32) State.reset) .rtcNotInitialised = true := by decide
/-- V40, V41. -/
theorem test_bkpRead :
    okAnd (exec (.bkpRead 2#8)
        { State.reset with rtc := { State.reset.rtc with bkp := #v[0#32, 0#32, 0xDEADBEEF#32, 0#32, 0#32] } })
      (answers 0xDEADBEEF#32) = true := by decide
theorem test_bkpWrite_last :
    okAnd (exec (.bkpWrite 4#8 0xFFFFFFFF#32) State.reset)
      (fun t => answers 0#32 t && decide (t.rtc.bkp = #v[0#32, 0#32, 0#32, 0#32, 0xFFFFFFFF#32])) = true := by decide
theorem test_bkpWrite_illegal :
    okAnd (exec (.bkpWrite 5#8 1#32) State.reset)
      (fun t => decide (t.rspC = some ⟨.illegal, 0#32⟩ ∧ t.rtc = State.reset.rtc)) = true := by decide
/-- V71: K5 re-arms the tick (`CLKSR = 0x0002FD02`). -/
theorem test_clkSelect_rearms_tick :
    okAnd (exec (.clkSelect 2#8) (atStep (.clkSelect 2#8) (.K .k5) 0 0#8 0#32 2#8
        { State.reset with clk := ⟨2#8, clkNone, clkNone, .none⟩ }))
      (fun t => t.pwr.tickie && (clksr t.clk == 0x0002FD02#32)) = true := by decide
/-- V74: K2 is held while `CLK_WAIT ≠ 0`. -/
theorem test_clkSelect_held :
    okAnd (exec (.clkSelect 1#8) (atStep (.clkSelect 1#8) (.K .k2) 0 0#8 0#32 1#8
        { State.reset with clk := ⟨clkResetDef, clkNone, clkNone, .osc⟩ }))
      (fun t => decide (t.seq = .busy ⟨.clkSelect 1#8, .K .k2, 0, 0#8, 0#32, 1#8⟩)) = true := by decide
/-- V70: `CLK_NONE` before the first selection. -/
theorem test_clkCurrent : okAnd (exec .clkCurrent State.reset) (answers 0x000000FD#32) = true := by decide

/-! ### The events -/

/-- V2, V3. -/
theorem test_evTick_wraps : (evTick { ready with tick := 0xFFFFFFFF#32 }).tick = 0#32 := by decide
theorem test_evTick_not_enabled : (evTick State.reset).tick = 0#32 := by decide
/-- V36, the last of its events: the match is periodic. -/
theorem test_evRtcMs_timer :
    (evRtcMs { ready with rtc := { armRtc .milliseconds 250#32 ready.rtc with cnt := 1249#64 } }).rtc =
      { armRtc .milliseconds 250#32 ready.rtc with cnt := 1250#64, wutF := true, wutNext := 1500#64 } := by decide
/-- R214's example. -/
theorem test_evRtcMs_alarm :
    (evRtcMs { ready with rtc := { ready.rtc with cnt := 5999#64, alrEn := true, alrTgt := 6000#64 } }).rtc.alrF =
      true := by decide
/-- V60: only the enabled pin sets `WUF`. -/
theorem test_evWkup : (evWkup 1 standing).pwr.wuf = true ∧ (evWkup 0 standing).pwr.wuf = false := by decide
/-- V59, V58. -/
theorem test_evExtIrq : (evExtIrq ready).pwr.extpend = false ∧ (evExtIrq stopped).pwr.extpend = true := by decide
/-- V51: EV_REGRDY only with `LPREG = 0`. -/
theorem test_evRegRdy :
    (evRegRdy { ready with pwr := { ready.pwr with reglpf := true } }).pwr.reglpf = false ∧
      (evRegRdy { ready with pwr := { ready.pwr with reglpf := true, lpreg := true } }).pwr.reglpf = true := by decide
/-- V60, the end: what StandbyExitReset leaves. -/
theorem test_evStandbyExit :
    (evStandbyExit (evWkup 1 standing)).seq = .idle ∧ (evStandbyExit (evWkup 1 standing)).rtc.src = .internal ∧
      (evStandbyExit (evWkup 1 standing)).rtc.cnt = 1000#64 ∧ (evStandbyExit (evWkup 1 standing)).tick = 0#32 ∧
      clksr (evStandbyExit (evWkup 1 standing)).clk = 0x00FDFDFF#32 := by decide
/-- V78: `PMSR` after reset, the unspecified bits masked. -/
theorem test_reset_pmsr : pmsr State.reset.pwr &&& 0xFFFF8BFF#32 = 0x00000004#32 := by decide
/-- R102: the two response words of the vectors' conventions. -/
theorem test_response_words :
    (Rsp.mk .ok 0x41#32).word = 0x000000041#34 ∧ (Rsp.mk .illegal 0#32).word = 0x100000000#34 := by decide

/-! ### Witnesses: for every obligation with hypotheses, a state and operands that meet them all -/

/-- An idle state meets the invariant when its plain checks pass. -/
theorem inv_of_idle {s : State} (hs : s.seq = .idle) (h1 : s.cfg.Legal) (h2 : ringsOk s = true)
    (h3 : clkIdsOk s = true) (h4 : rtcBitsOk s = true) (h5 : Quiet s.pwr s.clk) : Inv s :=
  ⟨h1, h2, h3, h4, by rw [hs]; exact h5⟩

/-- A state with a command in flight. -/
theorem inv_of_busy {s : State} {f : Flight} (hs : s.seq = .busy f) (h1 : s.cfg.Legal) (h2 : ringsOk s = true)
    (h3 : clkIdsOk s = true) (h4 : rtcBitsOk s = true) (h5 : InFlight f s.cfg s.pwr s.clk s.rtc) : Inv s :=
  ⟨h1, h2, h3, h4, by rw [hs]; exact h5⟩

theorem witness_reset_inv : Inv State.reset :=
  inv_of_idle rfl (by decide) (by decide) (by decide) (by decide) (by constructor <;> decide)

theorem ready_inv : Inv ready :=
  inv_of_idle rfl (by decide) (by decide) (by decide) (by decide) (by constructor <;> decide)

theorem abc_inv : Inv abc :=
  inv_of_idle rfl (by decide) (by decide) (by decide) (by decide) (by constructor <;> decide)

theorem stopped_inv : Inv stopped :=
  inv_of_busy rfl (by decide) (by decide) (by decide) (by decide) (by constructor <;> decide)

theorem standing_inv : Inv standing :=
  inv_of_busy rfl (by decide) (by decide) (by decide) (by decide) (by constructor <;> decide)

/-! Encoding -/

theorem witness_EncodeOfDecodeIsTheWord :
    decode 0x330000000002#48 = .ok (.pmLpStop .seconds 2#32) ∧ decode 0xFFFFFFFFFFFF#48 = .error (.unknownOp 0xFF#8) :=
  ⟨rfl, rfl⟩

theorem witness_TableRowsSelectWhatDecodes :
    (∃ r ∈ opcodeTable, r.op = 0x44#8 ∧ r.port = .C ∧ r.selects 0x44FFFFFFFFFF#48 = true) ∧
      (∃ r ∈ opcodeTable, r.op = 0x51#8 ∧ r.selects 0x510000000000#48 = true) ∧
      (∃ r ∈ opcodeTable, r.op = 0x51#8 ∧ r.selects 0x510000000001#48 = false) ∧
      (∀ r ∈ opcodeTable, r.op ≠ opField 0x000000000000#48) ∧
      (∀ r ∈ opcodeTable, r.op ≠ opField 0x520000000000#48) := by decide

/-! The ports and the step -/

theorem witness_PortsCheckAWordInOrder_C :
    (onC 0x000000000000#48 ready).faulted = none ∧ nextMove (onC 0x000000000000#48 ready) = .portC ∧
      (onC 0x000000000000#48 ready).seq = .idle ∧ (onC 0x000000000000#48 ready).cmdC = 0x000000000000#48 :: [] ∧
      (∀ r ∈ opcodeTable, r.op ≠ opField 0x000000000000#48) ∧
      opField 0x200000000041#48 = 0x20#8 ∧
      (∃ r ∈ opcodeTable, r.op = opField 0x100100000000#48 ∧ r.port = .C ∧ r.selects 0x100100000000#48 = false) ∧
      decodeTableWord 48 0x220100000000 = some (.rbRead 1#8) ∧ (Instr.rbRead 1#8).port = .C ∧
      (Instr.rbRead 1#8).wellFormed ready.cfg = false ∧
      decodeTableWord 48 0x220000000000 = some (.rbRead 0#8) ∧ (Instr.rbRead 0#8).wellFormed ready.cfg = true := by
  decide

theorem witness_PortsCheckAWordInOrder_P :
    (onP 0x200000000141#48 ready).faulted = none ∧ nextMove (onP 0x200000000141#48 ready) = .portP ∧
      intCtx (onP 0x200000000141#48 ready).pwr = true ∧
      (onP 0x200000000141#48 ready).cmdP = 0x200000000141#48 :: [] ∧
      (∀ r ∈ opcodeTable, r.op ≠ opField 0x260000000000#48) ∧
      (∃ r ∈ opcodeTable, r.op = opField 0x220000000000#48 ∧ r.port = .C) ∧
      (opField 0x200000000141#48 = 0x20#8 ∧ decodeTableWord 48 0x200000000141 = none) ∧
      (decodeTableWord 48 0x200100000041 = some (.rbInsert 1#8 0x41#8) ∧ ready.cfg.nRb ≤ (1#8).toNat) ∧
      (decodeTableWord 48 0x200000000041 = some (.rbInsert 0#8 0x41#8) ∧ (0#8).toNat < ready.cfg.nRb) := by
  decide

theorem witness_StepRunsTheCommandPlaced :
    (stopped.faulted = none ∧ nextMove stopped = .portC ∧
        stopped.seq = .busy ⟨.pmStop .seconds 5#32, .E12, 0, 0#8, 0#32, 0#8⟩) ∧
      (State.reset.faulted = none ∧ Instr.millis.port = .C) ∧
      (State.reset.faulted = none ∧ (Instr.rbInsert 0#8 0xFF#8).port = .P) := by decide

theorem witness_StepRunsTheScheduledEvent :
    (∀ m ∈ [Move.evTick, .evRtcMs, .evRegRdy, .evClkRdy, .evWkup 0, .evWkup 2, .evExtIrq, .powerOnReset,
        .standbyExitReset, .portP], (moving m ready).faulted = none ∧ nextMove (moving m ready) = m) ∧
      nextMove ready = .portC ∧ ready.seq = .idle ∧ ready.cmdC = [] ∧ ready.cmdP = [] := by decide

theorem witness_FaultedIsNeverCleared :
    ({ ready with faulted := some .noClockRecorded } : State).faulted = some .noClockRecorded ∧
      ∃ t, step (onC 0x410000000005#48 State.reset) = .next t ∧
        t.faulted ≠ (onC 0x410000000005#48 State.reset).faulted :=
  ⟨rfl, next_of (by decide)⟩

/-! Tick Counter -/

theorem witness_MillisAndClockCurrentAnswerARegister : ready.seq = .idle := rfl

theorem witness_TickEventCountsOne :
    (ready.pwr.gie = true ∧ ready.pwr.tickie = true ∧ ready.pwr.pstate = .active) ∧
      ¬ (State.reset.pwr.gie = true ∧ State.reset.pwr.tickie = true ∧ State.reset.pwr.pstate = .active) := by decide

theorem witness_OnlyTheTickInterruptAndResetsWriteTick :
    (∃ t, step (moving .evTick { ready with tick := 0xFFFFFFFF#32 }) = .next t ∧ t.tick ≠ 0xFFFFFFFF#32) ∧
      ∃ t, step (moving .powerOnReset { ready with tick := 7#32 }) = .next t ∧ t.tick ≠ 7#32 :=
  ⟨next_of (by decide), next_of (by decide)⟩

theorem witness_TickDifferenceCountsTheInterrupts : intCtx ready.pwr = true ∧ ready.pwr.tickie = true := by decide

/-! Ring Buffer -/

theorem witness_RingArithmetic : (0 < 2 ∧ 1 < 2) ∧ (62 < 64 ∧ 63 < 64) ∧ (0 < 64 ∧ 63 < 64) := by decide

theorem witness_InsertStoresOrDrops :
    (0#8).toNat < (withRing 63 5 [] ready).cfg.nRb ∧
      (intCtx (withRing 63 5 [] ready).pwr = true ∧ (63 + 1) % 64 ≠ (ringAt 0 (withRing 63 5 [] ready)).tail) ∧
      (intCtx (withRing 63 0 [] ready).pwr = true ∧ (63 + 1) % 64 = (ringAt 0 (withRing 63 0 [] ready)).tail) ∧
      intCtx stopped.pwr = false := by decide

theorem witness_InsertWritesOneByte :
    (ringsOk (withRing 63 5 [] ready) = true ∧ intCtx (withRing 63 5 [] ready).pwr = true) ∧
      (∃ t, exec (.rbInsert 0#8 0x7A#8) (withRing 63 5 [] ready) = .next t ∧ (ringAt 0 t).head = 0) ∧
      (ringsOk (withRing 4 5 [] ready) = true ∧ (4 + 1) % 64 = (ringAt 0 (withRing 4 5 [] ready)).tail) :=
  ⟨by decide, next_of (by decide), by decide⟩

theorem witness_AvailStepByStep : (0#8).toNat < ready.cfg.nRb ∧ ready.seq = .idle := by decide

theorem witness_ReadStepByStep :
    (0#8).toNat < abc.cfg.nRb ∧ abc.seq = .idle ∧ 0 = (ringAt 0 abc).tail ∧ 3 ≠ (ringAt 0 abc).tail := by decide

theorem witness_PeekStepByStep :
    (0#8).toNat < abc.cfg.nRb ∧ abc.seq = .idle ∧ 0 = (ringAt 0 abc).tail ∧ 3 ≠ (ringAt 0 abc).tail := by decide

theorem witness_ReadUntilStepByStep :
    (0#8).toNat < abc.cfg.nRb ∧ abc.seq = .idle ∧ (ringAt 0 ready).head = (ringAt 0 ready).tail ∧
      (ringAt 0 abc).head ≠ (ringAt 0 abc).tail ∧ (0x0A#8 : Byte) = 0x0A#8 ∧ (0x41#8 : Byte) ≠ 0x0A#8 := by decide

theorem witness_InitEmptiesTheRing : (0#8).toNat < abc.cfg.nRb ∧ abc.seq = .idle := by decide

theorem witness_InsertAppendsToTheUnreadBytes :
    Inv abc ∧ (0#8).toNat < abc.cfg.nRb ∧ intCtx abc.pwr = true ∧
      ∃ t, exec (.rbInsert 0#8 0x44#8) abc = .next t ∧ (ringAt 0 t).head = 4 :=
  ⟨abc_inv, by decide, by decide, next_of (by decide)⟩

theorem witness_RingRefinesTheBoundedQueue :
    Inv abc ∧ abc.seq = .idle ∧ (0#8).toNat < abc.cfg.nRb ∧
      unread abc.cfg.cap (ringAt 0 abc) = [0x41#8, 0x42#8] ++ 0x43#8 :: [] ∧ (0x43#8 : Byte) ∉ [0x41#8, 0x42#8] ∧
      unread abc.cfg.cap (ringAt 0 abc) = [] ++ 0x41#8 :: [0x42#8, 0x43#8] :=
  ⟨abc_inv, by decide, by decide, by decide, by decide, by decide⟩

/-- An insert of the terminator falls between two steps of an `RB_RDUNTIL` that waits for it. -/
def abcThenTerminator : State :=
  { abc with cmdP := [0x200000000044#48], sched := .portC :: .portP :: List.replicate 11 .portC }

theorem abcThenTerminator_inv : Inv abcThenTerminator :=
  inv_of_idle rfl (by decide) (by decide) (by decide) (by decide) (by constructor <;> decide)

theorem witness_RingRefinesTheBoundedQueue_interleaved :
    Inv abcThenTerminator ∧ abcThenTerminator.seq = .idle ∧ abcThenTerminator.cmdC = [] ∧
      abcThenTerminator.faulted = none ∧ noReset abcThenTerminator.sched = true ∧
      (0#8).toNat < abcThenTerminator.cfg.nRb ∧
      (∃ s₁ t, exec (.rbRdUntil 0#8 0x44#8) abcThenTerminator = .next s₁ ∧ run 13 s₁ = .next t ∧
        t.seq = .idle ∧ t.rspC = some ⟨.ok, 3#32⟩) ∧
      (unread abcThenTerminator.cfg.cap (ringAt 0 abcThenTerminator)).length +
        (insertedBytes 0#8 abcThenTerminator.cmdP).length ≤ abcThenTerminator.cfg.cap - 1 :=
  ⟨abcThenTerminator_inv, by decide, by decide, by decide, by decide, by decide, next_next_of (by decide), by decide⟩

/-- An insert falls between D1 and D2, and the read completes. -/
def abcThenInsert : State :=
  { abc with cmdP := [0x200000000044#48], sched := [.portP, .portC, .portC, .portC] }

theorem abcThenInsert_inv : Inv abcThenInsert :=
  inv_of_idle rfl (by decide) (by decide) (by decide) (by decide) (by constructor <;> decide)

theorem witness_ReadActsAtItsFirstStep :
    Inv abcThenInsert ∧ abcThenInsert.seq = .idle ∧ abcThenInsert.cmdC = [] ∧ abcThenInsert.faulted = none ∧
      noReset abcThenInsert.sched = true ∧ (0#8).toNat < abcThenInsert.cfg.nRb ∧
      (∃ s₁ t, exec (.rbRead 0#8) abcThenInsert = .next s₁ ∧ run 4 s₁ = .next t ∧ t.seq = .idle ∧ t.cmdP = []) ∧
      insertedBytes 0#8 abcThenInsert.cmdP = [0x44#8] ∧
      (unread abcThenInsert.cfg.cap (ringAt 0 abcThenInsert)).length +
        (insertedBytes 0#8 abcThenInsert.cmdP).length ≤ abcThenInsert.cfg.cap - 1 :=
  ⟨abcThenInsert_inv, by decide, by decide, by decide, by decide, by decide, next_next_of (by decide), by decide,
    by decide⟩

theorem witness_AvailIsALowerBound :
    Inv abcThenInsert ∧ abcThenInsert.seq = .idle ∧ abcThenInsert.cmdC = [] ∧ abcThenInsert.faulted = none ∧
      noReset abcThenInsert.sched = true ∧ (0#8).toNat < abcThenInsert.cfg.nRb ∧
      ∃ s₁ t, exec (.rbAvail 0#8) abcThenInsert = .next s₁ ∧ run 2 s₁ = .next t ∧ t.seq = .idle :=
  ⟨abcThenInsert_inv, by decide, by decide, by decide, by decide, by decide, next_next_of (by decide)⟩

/-- `RB_READ` at D4. -/
def readAtD4 : State := moving .portC (atStep (.rbRead 0#8) .D4 3 0x41#8 0#32 0#8 abc)

theorem readAtD4_inv : Inv readAtD4 :=
  inv_of_busy rfl (by decide) (by decide) (by decide) (by decide) (by constructor <;> decide)

theorem witness_RingWritersAreTheOwners :
    (Inv (onP 0x200000000044#48 abc) ∧ ∃ t, step (onP 0x200000000044#48 abc) = .next t ∧
        (ringAt 0 t).head ≠ (ringAt 0 (onP 0x200000000044#48 abc)).head) ∧
      (Inv readAtD4 ∧ ∃ t, step readAtD4 = .next t ∧ (ringAt 0 t).tail ≠ (ringAt 0 readAtD4).tail) :=
  ⟨⟨inv_of_idle rfl (by decide) (by decide) (by decide) (by decide) (by constructor <;> decide),
    next_of (by decide)⟩, readAtD4_inv, next_of (by decide)⟩

/-! RTC Wake Engine and backup registers -/

theorem witness_ArmWritesOneComparator :
    State.reset.rtc.src = .none ∧ ready.rtc.src ≠ .none ∧ (0xFFFFFFFF#32 : Word) ≠ 0#32 := by decide

theorem witness_RtcCommandsInOneStep :
    State.reset.seq = .idle ∧ ready.seq = .idle ∧ ready.rtc.src ≠ .none := by decide

theorem witness_BackupRegistersReadAndWrite : State.reset.seq = .idle ∧ (0#8).toNat < 5 ∧ (4#8).toNat < 5 := by decide

/-- `PM_STOP_IRQ` at W4 with no configuration recorded. -/
def replayOfNothing : State :=
  inFlight .pmStopIrq (.W4 .k1) { State.reset with pwr := { State.reset.pwr with gie := false, deep := true } }

theorem replayOfNothing_inv : Inv replayOfNothing :=
  inv_of_busy rfl (by decide) (by decide) (by decide) (by decide) (by constructor <;> decide)

/-- `PM_STANDBY_SEC 60` at B4 with no RTC source. -/
def standingUnarmed : State := inFlight (.pmStandbySec 60#32) .B4 State.reset

theorem standingUnarmed_inv : Inv standingUnarmed :=
  inv_of_busy rfl (by decide) (by decide) (by decide) (by decide) (by constructor <;> decide)

theorem witness_FaultsAreTheTwoOfTheList :
    (State.reset.rtc.src = .none ∧ State.reset.seq = .idle ∧ (timedOf (.pmSleep .seconds 0#32)).isSome = true) ∧
      (wakes .pmStopIrq = true ∧ replayOfNothing.clk.current = clkNone) ∧
      (Inv State.reset ∧ State.reset.seq = .idle ∧
        exec (.rtcArmSec 5#32) State.reset = .fault .rtcNotInitialised) ∧
      (Inv standingUnarmed ∧ (∃ f, standingUnarmed.seq = .busy f ∧ f.ins = .pmStandbySec 60#32) ∧
        exec (.pmStandbySec 60#32) standingUnarmed = .fault .rtcNotInitialised) ∧
      (Inv replayOfNothing ∧
        (∃ f, replayOfNothing.seq = .busy f ∧ f.ins = .pmStopIrq) ∧
        exec .pmStopIrq replayOfNothing = .fault .noClockRecorded) :=
  ⟨by decide, by decide, ⟨witness_reset_inv, rfl, fault_of (by decide)⟩,
    ⟨standingUnarmed_inv, ⟨_, rfl, rfl⟩, fault_of (by decide)⟩, replayOfNothing_inv, ⟨_, rfl, rfl⟩, fault_of (by decide)⟩

/-- Which steps arm (R213): B4 of `PM_STANDBY_SEC` alone of the standby commands, W7 not of `PM_STOP_IRQ`. -/
theorem test_armStep :
    armStep (.pmStandbySec 60#32) .B4 = true ∧ armStep (.pmStandbyPin 2#8) .B4 = false ∧
      armStep (.pmSleep .seconds 1#32) .W7 = true ∧ armStep .pmStopIrq .W7 = false := by decide

theorem witness_RtcMillisecond :
    (ready.rtc.src = .internal ∧ ready.cfg.rtcSrc1Present = true) ∧ State.reset.rtc.src = .none := by decide

theorem witness_ArmedFlagIsSetByTheLastMillisecond :
    rtcRunning { ready with rtc := { ready.rtc with cnt := 0xFFFFFFFFFFFFFE0C#64 } } = true ∧
      (0xFFFFFFFF#32 : Word) ≠ 0#32 ∧ (1#32 : Word) ≠ 0#32 := by decide

/-- The alarm has matched and `RTC_ARM_SEC 0` is presented. -/
def pending : State :=
  onC 0x410000000000#48 { ready with rtc := { armRtc .seconds 5#32 ready.rtc with alrF := true } }

theorem witness_RtcIrqIsALevel :
    rtcIrq pending.rtc = true ∧ ∃ t, step pending = .next t ∧ rtcIrq t.rtc = false :=
  ⟨by decide, next_of (by decide)⟩

/-! Clock Controller -/

theorem witness_ClockSelectStepByStep :
    ready.cfg.Legal ∧ (2#8).toNat < ready.cfg.nClk ∧ (0#8).toNat < ready.cfg.nClk ∧ ready.seq = .idle ∧
      ready.clk.wait = .none ∧ ({ ready with clk := { ready.clk with wait := .sw } } : State).clk.wait ≠ .none := by
  decide

theorem witness_ClockSelectCompletes :
    State.reset.cfg.Legal ∧ (2#8).toNat < State.reset.cfg.nClk ∧ State.reset.seq = .idle ∧
      State.reset.faulted = none := by decide

/-- `CLK_SELECT 0` at K6. -/
def selectAtK6 : State :=
  moving .portC (atStep (.clkSelect 0#8) (.K .k6) 0 0#8 0#32 0#8 { ready with clk := ⟨0#8, 2#8, 0#8, .none⟩ })

theorem selectAtK6_inv : Inv selectAtK6 :=
  inv_of_busy rfl (by decide) (by decide) (by decide) (by decide) (by constructor <;> decide)

theorem witness_OnlyClockSelectChangesTheRecord :
    (Inv selectAtK6 ∧ ∃ t, step selectAtK6 = .next t ∧ t.clk.current ≠ selectAtK6.clk.current) ∧
      (Inv (moving .powerOnReset ready) ∧ ∃ t, step (moving .powerOnReset ready) = .next t ∧
        t.clk.current ≠ (moving .powerOnReset ready).clk.current) :=
  ⟨⟨selectAtK6_inv, next_of (by decide)⟩,
    inv_of_idle rfl (by decide) (by decide) (by decide) (by decide) (by constructor <;> decide), next_of (by decide)⟩

/-! Power Mode Controller -/

theorem witness_TimedEntryStepByStep :
    timedOf (.pmSleep .seconds 1#32) = some (false, false, .seconds, 1#32) ∧
      timedOf (.pmLpSleep .milliseconds 0#32) = some (true, false, .milliseconds, 0#32) ∧
      timedOf (.pmStop .seconds 5#32) = some (false, true, .seconds, 5#32) ∧
      timedOf (.pmLpStop .milliseconds 0xFFFFFFFF#32) = some (true, true, .milliseconds, 0xFFFFFFFF#32) ∧
      ready.seq = .idle ∧ ready.rtc.src ≠ .none ∧ ready.clk.wait = .none ∧
      ({ ready with clk := { ready.clk with wait := .osc } } : State).clk.wait ≠ .none := by decide

theorem witness_WakeListStepByStep :
    wakes (.pmSleep .seconds 1#32) = true ∧ wakes .pmStopIrq = true ∧ ready.clk.current ≠ clkNone ∧
      ready.clk.wait = .none ∧ ({ ready with clk := { ready.clk with wait := .src } } : State).clk.wait ≠ .none ∧
      timedOf (.pmLpStop .milliseconds 1#32) = some (true, true, .milliseconds, 1#32) ∧ ready.rtc.src ≠ .none := by
  decide

theorem witness_StopUntilInterruptStepByStep : ready.seq = .idle := rfl

theorem witness_StandbyEntryStepByStep :
    isStandby .pmStandby = true ∧ isStandby (.pmStandbySec 60#32) = true ∧ isStandby (.pmStandbyPin 2#8) = true ∧
      (Instr.pmStandbyPin 2#8).wellFormed ready.cfg = true ∧ ready.seq = .idle ∧ ready.rtc.src ≠ .none := by decide

theorem witness_PowerEventsWriteOneFlag :
    standing.pwr.wupen.getLsbD 1 = true ∧ standing.pwr.wupen.getLsbD 0 = false ∧
      (ready.pwr.gie = true ∧ ready.pwr.pstate = .active) ∧ stopped.pwr.gie = false := by decide

/-- `PM_STOP_IRQ` at W5. -/
def unmasking : State :=
  inFlight .pmStopIrq .W5 { ready with pwr := { ready.pwr with gie := false, deep := true } }

theorem unmasking_inv : Inv unmasking :=
  inv_of_busy rfl (by decide) (by decide) (by decide) (by decide) (by constructor <;> decide)

theorem witness_InterruptsAreHeldWhileMasked :
    (intCtx ready.pwr = true ∧ intCtx stopped.pwr = false ∧ State.reset.pwr.tickie = false) ∧
      ((moving .portP stopped).faulted = none ∧ intCtx (moving .portP stopped).pwr = false ∧
        nextMove (moving .portP stopped) = .portP ∧ nextMove (moving .evTick stopped) = .evTick) ∧
      Inv unmasking ∧ intCtx unmasking.pwr = false ∧ ∃ t, step unmasking = .next t ∧ intCtx t.pwr = true :=
  ⟨by decide, by decide, unmasking_inv, by decide, next_of (by decide)⟩

/-- `PM_STOP s, 5` at its wait step. -/
def stopping : State :=
  inFlight (.pmStop .seconds 5#32) .E11
    { ready with
      pwr := { ready.pwr with gie := false, tickie := false, rtcie := true, deep := true }
      rtc := armRtc .seconds 5#32 ready.rtc }

theorem stopping_inv : Inv stopping :=
  inv_of_busy rfl (by decide) (by decide) (by decide) (by decide) (by constructor <;> decide)

/-- The alarm has matched in the wait of `PM_STOP s, 5`. -/
def waking : State := { stopped with rtc := { stopped.rtc with alrF := true } }

theorem waking_inv : Inv waking :=
  inv_of_busy rfl (by decide) (by decide) (by decide) (by decide) (by constructor <;> decide)

/-- Pin 1 has fired in standby, and the exit is next. -/
def leaving : State := moving .standbyExitReset (evWkup 1 standing)

theorem leaving_inv : Inv leaving :=
  inv_of_busy rfl (by decide) (by decide) (by decide) (by decide) (by constructor <;> decide)

theorem witness_PowerStateTransitions :
    (Inv stopping ∧ ∃ t, step stopping = .next t ∧ t.pwr.pstate ≠ stopping.pwr.pstate) ∧
      (Inv waking ∧ ∃ t, step waking = .next t ∧ t.pwr.pstate ≠ waking.pwr.pstate) ∧
      (Inv leaving ∧ ∃ t, step leaving = .next t ∧ t.pwr.pstate ≠ leaving.pwr.pstate) :=
  ⟨⟨stopping_inv, next_of (by decide)⟩, ⟨waking_inv, next_of (by decide)⟩, leaving_inv, next_of (by decide)⟩

/-- What is scheduled after Q1 for `PM_STOP_IRQ` to complete. -/
def wholeStop : State :=
  { ready with
    sched := [.portC, .portC, .portC, .portC, .evExtIrq] ++
      [.portC, .portC, .portC, .portC, .portC, .evClkRdy, .portC, .evClkRdy, .portC, .evClkRdy] ++
      [.portC, .portC, .portC, .portC, .portC] }

theorem wholeStop_inv : Inv wholeStop :=
  inv_of_idle rfl (by decide) (by decide) (by decide) (by decide) (by constructor <;> decide)

theorem witness_ClockRoundTrip :
    wakes .pmStopIrq = true ∧ Inv wholeStop ∧ wholeStop.seq = .idle ∧ wholeStop.faulted = none ∧
      wholeStop.clk.current ≠ clkNone ∧ noPowerOn wholeStop.sched = true ∧ wholeStop.cmdC = [] ∧
      ∃ s₁ t, exec .pmStopIrq wholeStop = .next s₁ ∧ run 20 s₁ = .next t ∧ t.seq = .idle :=
  ⟨by decide, wholeStop_inv, by decide, by decide, by decide, by decide, by decide, next_next_of (by decide)⟩

/-- What is scheduled after E1 for `PM_SLEEP ms, 1` to complete. -/
def wholeSleep : State :=
  { ready with
    sched := [.portC, .portC, .portC, .portC, .portC, .evRtcMs, .portC, .portC] ++
      [.portC, .portC, .portC, .portC, .evClkRdy, .portC, .evClkRdy, .portC, .evClkRdy] ++
      [.portC, .portC, .portC, .portC, .portC, .portC] }

theorem wholeSleep_inv : Inv wholeSleep :=
  inv_of_idle rfl (by decide) (by decide) (by decide) (by decide) (by constructor <;> decide)

theorem witness_ClockRoundTrip_timed :
    wakes (.pmSleep .milliseconds 1#32) = true ∧ Inv wholeSleep ∧ wholeSleep.seq = .idle ∧
      wholeSleep.faulted = none ∧ wholeSleep.clk.current ≠ clkNone ∧ noPowerOn wholeSleep.sched = true ∧
      wholeSleep.cmdC = [] ∧ timedOf (.pmSleep .milliseconds 1#32) = some (false, false, .milliseconds, 1#32) ∧
      ∃ s₁ t, exec (.pmSleep .milliseconds 1#32) wholeSleep = .next s₁ ∧ run 23 s₁ = .next t ∧ t.seq = .idle :=
  ⟨by decide, wholeSleep_inv, by decide, by decide, by decide, by decide, by decide, by decide,
    next_next_of (by decide)⟩

theorem witness_TimedCommandCanComplete :
    timedOf (.pmLpStop .milliseconds 1000#32) = some (true, true, .milliseconds, 1000#32) ∧
      (1000#32 : Word) ≠ 0#32 ∧ Inv ready ∧ ready.seq = .idle ∧ ready.faulted = none ∧ rtcRunning ready = true ∧
      ready.clk.current ≠ clkNone :=
  ⟨by decide, by decide, ready_inv, by decide, by decide, by decide, by decide⟩

theorem witness_StopUntilInterruptCompletes :
    Inv ready ∧ ready.seq = .idle ∧ ready.faulted = none ∧ ready.clk.current ≠ clkNone :=
  ⟨ready_inv, by decide, by decide, by decide⟩

theorem witness_DurationZeroNeverWakes :
    timedOf (.pmStop .seconds 0#32) = some (false, true, .seconds, 0#32) ∧ Inv ready ∧ ready.seq = .idle ∧
      ready.faulted = none ∧ ready.rtc.alrEn = false ∧ ready.rtc.wutEn = false ∧ rtcIrq ready.rtc = false ∧
      ready.cfg.timedWaitExtWake = false ∧ noPowerOn ready.sched = true ∧
      ∃ s₁ t, exec (.pmStop .seconds 0#32) ready = .next s₁ ∧ run 8 s₁ = .next t ∧ t.pwr.pstate = .stopWait :=
  ⟨by decide, ready_inv, by decide, by decide, by decide, by decide, by decide, by decide, by decide,
    next_next_of (by decide)⟩

theorem witness_StandbyNeverResponds :
    isStandby (.pmStandbyPin 2#8) = true ∧ Inv ready ∧ ready.seq = .idle ∧ ready.faulted = none ∧
      (Instr.pmStandbyPin 2#8).wellFormed ready.cfg = true ∧ noReset ready.sched = true ∧
      ∃ s₁ t, exec (.pmStandbyPin 2#8) ready = .next s₁ ∧ run 8 s₁ = .next t ∧ t.pwr.pstate = .standbyWait :=
  ⟨by decide, ready_inv, by decide, by decide, by decide, by decide, next_next_of (by decide)⟩

theorem witness_WakePinLeavesStandbyByReset : Inv ready ∧ ready.seq = .idle ∧ ready.faulted = none :=
  ⟨ready_inv, by decide, by decide⟩

/-! Status read and reset -/

theorem witness_CsrReadAnswersTheRegister : ready.seq = .idle ∧ (0#8).toNat < ready.cfg.nRb := by decide

theorem witness_PmsrReadsShowActive :
    Inv ready ∧ ready.seq = .idle ∧
      ∃ t, exec (.csrRead 0x00#8 0#8) ready = .next t ∧ t.rspC = some ⟨.ok, 0x0000000C#32⟩ :=
  ⟨ready_inv, by decide, next_of (by decide)⟩

theorem witness_PowerOnResetRestarts :
    (moving .powerOnReset stopped).faulted = none ∧ nextMove (moving .powerOnReset stopped) = .powerOnReset := by decide

theorem witness_StandbyExitValues :
    standbyExitEnabled (evWkup 1 standing) = true ∧ standbyExitEnabled standing = false ∧
      standbyExitEnabled { evWkup 1 standing with rtc := State.reset.rtc } = true ∧ State.reset.rtc.src = .none := by
  decide

/-! The whole machine -/

theorem witness_EveryStepKeepsTheInvariant :
    (Inv stopping ∧ ∃ t, step stopping = .next t ∧ t.pwr.pstate = .stopWait) ∧
      (Inv leaving ∧ ∃ t, step leaving = .next t ∧ t.seq = .idle) :=
  ⟨⟨stopping_inv, next_of (by decide)⟩, leaving_inv, next_of (by decide)⟩

theorem witness_OnlyWrongPortWordsAreRefused :
    Inv stopping ∧ stopping.faulted = none ∧ Inv (onC 0x200000000041#48 ready) ∧
      step (onC 0x200000000041#48 ready) = .refused (.wrongPort 0x20#8) :=
  ⟨stopping_inv, by decide,
    inv_of_idle rfl (by decide) (by decide) (by decide) (by decide) (by constructor <;> decide),
    refused_of (by decide)⟩

theorem witness_NothingInterruptsAPowerSequence :
    (Inv stopped ∧ stopped.seq = .busy ⟨.pmStop .seconds 5#32, .E12, 0, 0#8, 0#32, 0#8⟩ ∧ masked .E12 = true) ∧
      (Inv unmasking ∧ masked .W5 = true ∧ ∃ t, step unmasking = .next t ∧ t.pwr.gie = true) :=
  ⟨⟨stopped_inv, rfl, by decide⟩, unmasking_inv, by decide, next_of (by decide)⟩

end Sys2Proof.Tests
end

section
/-! PROOFS. What no command writes: `TICK` (R123) and the model's own run fields. One lemma per shared operation
and step list, then `exec` and the two ports. -/

namespace Sys2Proof.Machine

/-! ### The fields that no command writes -/

/-- The part of the state that no command writes: `TICK` (R123), `FAULTED` (only `recordFault` sets it, R36), the
parameters, the scripts and the schedule (the ports and the step consume them), and the draw count (only resets draw). -/
structure Unwritten where
  tick : Word
  faulted : Option Fault
  cfg : Params
  cmdC : List Cmd
  cmdP : List Cmd
  sched : List Move
  draws : Nat

/-- The fields of a state that no command writes. -/
def State.unwritten (s : State) : Unwritten := ⟨s.tick, s.faulted, s.cfg, s.cmdC, s.cmdP, s.sched, s.draws⟩

/-- Equal `Unwritten` parts carry the same `TICK`. -/
theorem tick_eq_of_unwritten {s t : State} (h : t.unwritten = s.unwritten) : t.tick = s.tick :=
  congrArg Unwritten.tick h

@[simp] theorem respondC_unwritten (st : Status) (val : Word) (s : State) :
    (respondC st val s).unwritten = s.unwritten := rfl
@[simp] theorem respondP_unwritten (st : Status) (val : Word) (s : State) :
    (respondP st val s).unwritten = s.unwritten := rfl
@[simp] theorem illegalC_unwritten (s : State) : (illegalC s).unwritten = s.unwritten := rfl
@[simp] theorem illegalP_unwritten (s : State) : (illegalP s).unwritten = s.unwritten := rfl
@[simp] theorem goto_unwritten (f : Flight) (st : StepName) (s : State) :
    (goto f st s).unwritten = s.unwritten := rfl
@[simp] theorem setRing_unwritten (i : Nat) (r : Ring) (s : State) : (setRing i r s).unwritten = s.unwritten := rfl
@[simp] theorem dropOldest_unwritten (i : Nat) (s : State) : (dropOldest i s).unwritten = s.unwritten := rfl
@[simp] theorem onPwr_unwritten (g : Pwr → Pwr) (s : State) : (onPwr g s).unwritten = s.unwritten := rfl
@[simp] theorem clockTreeReset_unwritten (s : State) : (clockTreeReset s).unwritten = s.unwritten := rfl
@[simp] theorem enterWait_unwritten (s : State) : (enterWait s).unwritten = s.unwritten := rfl
@[simp] theorem emit_unwritten (i b : Byte) (s : State) : (emit i b s).unwritten = s.unwritten := rfl
@[simp] theorem bkpSet_unwritten (k : Byte) (w : Word) (s : State) : (bkpSet k w s).unwritten = s.unwritten := rfl

@[simp] theorem rtcUpdate_unwritten (r : Rtc) (s : State) :
    ({ s with rtc := r } : State).unwritten = s.unwritten := rfl

@[simp] theorem insertByte_unwritten (i : Nat) (b : Byte) (s : State) :
    (insertByte i b s).unwritten = s.unwritten := by
  unfold insertByte; dsimp only; split <;> rfl

/-! ### Outcomes and actions that keep them -/

/-- Any next state that the outcome `o` answers agrees with `s` on what no command writes. -/
def KeepsUnwritten (s : State) (o : Out) : Prop := ∀ t, o = .next t → t.unwritten = s.unwritten

@[simp] theorem keepsUnwritten_next (s t : State) : KeepsUnwritten s (.next t) ↔ t.unwritten = s.unwritten := by
  simp [KeepsUnwritten]

@[simp] theorem keepsUnwritten_fault (s : State) (r : Fault) : KeepsUnwritten s (.fault r) := by
  simp [KeepsUnwritten]

@[simp] theorem keepsUnwritten_refused (s : State) (r : Refusal) : KeepsUnwritten s (.refused r) := by
  simp [KeepsUnwritten]

@[simp] theorem keepsUnwritten_ite (s : State) (c : Prop) [Decidable c] (o o' : Out) :
    KeepsUnwritten s (if c then o else o') ↔ (c → KeepsUnwritten s o) ∧ (¬ c → KeepsUnwritten s o') := by
  split <;> simp_all

/-- An action that is done agrees with `s` on what no command writes. -/
def Act.Keeps (s : State) (a : Act) : Prop := ∀ t, a = .done t → t.unwritten = s.unwritten

theorem arm_keeps (u : TimeUnit) (d : Word) (s : State) : (arm u d s).Keeps s := by
  intro t h
  obtain ⟨-, hf⟩ | ⟨-, hd⟩ := arm_cases u d s
  · simp [hf] at h
  · rw [hd] at h; cases h; rfl

theorem clockHold_keeps (s : State) (g : Clk → Clk) : (clockHold s g).Keeps s := by
  intro t h
  unfold clockHold at h
  split at h <;> cases h
  rfl

theorem clockStep_keeps (c : ClkId) (k : KStep) (s : State) : (clockStep c k s).Keeps s := by
  cases k with
  | k1 =>
    intro t h
    simp only [clockStep] at h
    split at h <;> cases h
    rfl
  | k2 => exact clockHold_keeps s fun clk => { clk with wait := .src }
  | k3 => exact clockHold_keeps s fun clk => { clk with wait := .sw }
  | k4 => exact clockHold_keeps s fun clk => { clk with active := c }
  | k5 | k6 => rintro _ ⟨⟩; rfl

/-- A step keeps what its action keeps, when the sequencer's move after it does. -/
theorem andThen_keepsUnwritten {a : Act} {s : State} {k : State → State} (ha : a.Keeps s)
    (hk : ∀ t, (k t).unwritten = t.unwritten) : KeepsUnwritten s (a.andThen s k) := by
  intro t h
  obtain ⟨-, rfl⟩ | ⟨u, hu, rfl⟩ := andThen_next h
  · rfl
  · exact (hk u).trans (ha u hu)

/-- `Arm` as a step. -/
@[simp] theorem arm_goto_keepsUnwritten (u : TimeUnit) (d : Word) (f : Flight) (st : StepName) (s : State) :
    KeepsUnwritten s ((arm u d s).andThen s (goto f st)) :=
  andThen_keepsUnwritten (arm_keeps u d s) fun _ => rfl

/-- `Arm` as a command's last step. -/
@[simp] theorem arm_respondC_keepsUnwritten (u : TimeUnit) (d : Word) (st : Status) (val : Word) (s : State) :
    KeepsUnwritten s ((arm u d s).andThen s (respondC st val)) :=
  andThen_keepsUnwritten (arm_keeps u d s) fun _ => rfl

/-- A port-C command keeps what each of its steps keeps: accepting it writes only `SEQ` and the response. -/
theorem onPortC_keepsUnwritten {body : Flight → State → Out} (h : ∀ f s, KeepsUnwritten s (body f s)) {ins : Instr}
    {legal : Bool} {first : StepName} {s : State} : KeepsUnwritten s (onPortC ins legal first body s) := by
  cases hs : s.seq with
  | idle =>
    rw [onPortC_idle hs, keepsUnwritten_ite]
    exact ⟨fun _ => h _ { s with seq := .busy (Flight.start ins first), rspC := none }, fun _ => by simp⟩
  | busy f =>
    by_cases hf : f.ins = ins
    · rw [onPortC_busy hs hf]; exact h f s
    · rw [onPortC_occupied hs hf]; exact keepsUnwritten_refused s _

/-! ### The step lists -/

theorem wakeStep_keepsUnwritten {afterW6 : State → State} {other : Out} {s : State}
    (hafter : ∀ t, (afterW6 t).unwritten = t.unwritten) (hother : KeepsUnwritten s other) (f : Flight) :
    KeepsUnwritten s (wakeStep afterW6 other f s) := by
  unfold wakeStep
  split
  case h_4 k _ => exact andThen_keepsUnwritten (clockStep_keeps _ k s) fun _ => by cases k <;> rfl
  all_goals simp [hafter, hother]

theorem clockDownStep_keepsUnwritten (f : Flight) (k : KStep) (s : State) :
    KeepsUnwritten s (clockDownStep f k s) := by
  unfold clockDownStep
  split
  case h_5 | h_6 => exact keepsUnwritten_refused s _
  all_goals exact andThen_keepsUnwritten (clockStep_keeps clkLp _ s) (goto_unwritten _ _)

theorem timedStep_keepsUnwritten (lp deep : Bool) (u : TimeUnit) (d : Word) (f : Flight) (s : State) :
    KeepsUnwritten s (timedStep lp deep u d f s) := by
  unfold timedStep
  split
  case h_10 k _ => exact clockDownStep_keepsUnwritten f k s
  case h_14 => exact wakeStep_keepsUnwritten (goto_unwritten f .W7) (keepsUnwritten_refused s _) f
  all_goals simp

theorem standbyStep_keepsUnwritten {b4 : State → Out} {s : State} (hb4 : KeepsUnwritten s (b4 s))
    (afterB3 : StepName) (f : Flight) : KeepsUnwritten s (standbyStep afterB3 b4 f s) := by
  unfold standbyStep
  split
  case h_4 => exact hb4
  all_goals simp

/-! ### The commands -/

theorem execPmStopIrq_keepsUnwritten (s : State) : KeepsUnwritten s (execPmStopIrq s) := by
  refine onPortC_keepsUnwritten fun f s => ?_
  split
  case h_7 => exact wakeStep_keepsUnwritten (respondC_unwritten .ok 0#32) (keepsUnwritten_refused s _) f
  all_goals simp

theorem execClkSelect_keepsUnwritten (c : Byte) (s : State) : KeepsUnwritten s (execClkSelect c s) := by
  refine onPortC_keepsUnwritten fun f s => ?_
  split
  case h_1 k _ => exact andThen_keepsUnwritten (clockStep_keeps c k s) fun _ => by cases k <;> rfl
  case h_2 => exact keepsUnwritten_refused s _

/-- One step of any command leaves what no command writes. -/
theorem exec_keepsUnwritten (ins : Instr) (s : State) : KeepsUnwritten s (exec ins s) := by
  unfold exec
  cases ins with
  | rbInsert i b => simp [execRbInsert]
  | pmSleep u d | pmLpSleep u d | pmStop u d | pmLpStop u d =>
    exact onPortC_keepsUnwritten (timedStep_keepsUnwritten _ _ u d)
  | pmStopIrq => exact execPmStopIrq_keepsUnwritten s
  | pmStandby | pmStandbySec | pmStandbyPin =>
    refine onPortC_keepsUnwritten fun f s => standbyStep_keepsUnwritten ?_ _ f
    simp
  | clkSelect c => exact execClkSelect_keepsUnwritten c s
  | csrRead | millis | rbAvail | rbRead | rbPeek | rbRdUntil | rbInit | rtcInit | rtcArmSec | rtcArmMs | bkpRead
  | bkpWrite | clkCurrent =>
    refine onPortC_keepsUnwritten fun f s => ?_
    split <;> simp

/-! ### The ports -/

theorem acceptC_keepsUnwritten (w : Cmd) (s : State) : KeepsUnwritten s (acceptC w s) := by
  unfold acceptC
  split
  · simp
  · simp
  · split
    · simp
    · exact exec_keepsUnwritten _ s

theorem acceptP_keepsUnwritten (w : Cmd) (s : State) : KeepsUnwritten s (acceptP w s) := by
  unfold acceptP
  split
  · simp
  · simp
  · split
    · simp
    · exact exec_keepsUnwritten _ s

/-- Of what no command writes, port C's turn writes its own script alone. -/
theorem portCTurn_unwritten {s t : State} (h : portCTurn s = .next t) :
    t.unwritten = { s.unwritten with cmdC := t.cmdC } := by
  obtain ⟨f, -, he⟩ | ⟨-, -, he⟩ | ⟨w, rest, -, -, he⟩ := portCTurn_cases s <;> rw [he] at h
  · have hu := exec_keepsUnwritten f.ins s t h
    have hc : t.cmdC = s.cmdC := congrArg Unwritten.cmdC hu
    rw [hu, hc]; rfl
  · cases h; rfl
  · have hu := acceptC_keepsUnwritten w _ t h
    have hc : t.cmdC = rest := congrArg Unwritten.cmdC hu
    rw [hu, hc]; rfl

/-- Everything port P's turn can do: nothing without a word or while it is held (R34), else the word is accepted. -/
theorem portPTurn_cases (s : State) :
    ((s.cmdP = [] ∨ intCtx s.pwr = false) ∧ portPTurn s = .next s) ∨
      (∃ w rest, s.cmdP = w :: rest ∧ intCtx s.pwr = true ∧ portPTurn s = acceptP w { s with cmdP := rest }) := by
  cases hp : s.cmdP with
  | nil => exact .inl ⟨.inl rfl, by simp only [portPTurn, hp]⟩
  | cons w rest =>
    cases hi : intCtx s.pwr with
    | false => exact .inl ⟨.inr rfl, by simp [portPTurn, hp, hi]⟩
    | true => exact .inr ⟨w, rest, rfl, rfl, by simp [portPTurn, hp, hi]⟩

/-- Of what no command writes, port P's turn writes its own script alone. -/
theorem portPTurn_unwritten {s t : State} (h : portPTurn s = .next t) :
    t.unwritten = { s.unwritten with cmdP := t.cmdP } := by
  obtain ⟨-, he⟩ | ⟨w, rest, -, -, he⟩ := portPTurn_cases s <;> rw [he] at h
  · cases h; rfl
  · have hu := acceptP_keepsUnwritten w _ t h
    have hc : t.cmdP = rest := congrArg Unwritten.cmdP hu
    rw [hu, hc]; rfl

end Sys2Proof.Machine
end

section
/-! PROOFS. Tick Counter (40_tick_counter.md): who writes `TICK`. -/

namespace Sys2Proof.Machine

/-! ### The environment events -/

@[simp] theorem evRtcMs_unwritten (s : State) : (evRtcMs s).unwritten = s.unwritten := by
  unfold evRtcMs; split <;> rfl

@[simp] theorem evRegRdy_unwritten (s : State) : (evRegRdy s).unwritten = s.unwritten := by
  unfold evRegRdy; split <;> rfl

@[simp] theorem evClkRdy_unwritten (s : State) : (evClkRdy s).unwritten = s.unwritten := by
  unfold evClkRdy; split <;> rfl

@[simp] theorem evWkup_unwritten (p : Fin 3) (s : State) : (evWkup p s).unwritten = s.unwritten := by
  unfold evWkup; split <;> rfl

@[simp] theorem evExtIrq_unwritten (s : State) : (evExtIrq s).unwritten = s.unwritten := by
  unfold evExtIrq; split <;> rfl

/-- EV_TICK is enabled and counts one, or does nothing (R121). -/
theorem evTick_cases (s : State) :
    (intCtx s.pwr = true ∧ s.pwr.tickie = true ∧ evTick s = { s with tick := s.tick + 1#32 }) ∨ evTick s = s := by
  unfold evTick
  split
  case isTrue h =>
    obtain ⟨hi, hk⟩ := Bool.and_eq_true_iff.mp h
    exact .inl ⟨hi, hk, rfl⟩
  case isFalse => exact .inr rfl

@[simp] theorem powerOnReset_tick (s : State) : (powerOnReset s).tick = 0#32 := rfl

/-- StandbyExitReset clears `TICK`, or is not enabled and does nothing (R174, R312). -/
theorem evStandbyExit_cases (s : State) : (evStandbyExit s).tick = 0#32 ∨ evStandbyExit s = s := by
  unfold evStandbyExit
  split
  · exact .inl rfl
  · exact .inr rfl

/-! ### Every step -/

/-- Everything an agent's step can do to `TICK`. -/
theorem agentTurn_tick {m : Move} {s t : State} (h : agentTurn m s = .next t) :
    t.tick = s.tick ∨
      (m = .evTick ∧ intCtx s.pwr = true ∧ s.pwr.tickie = true ∧ t.tick = s.tick + 1#32) ∨
      ((m = .powerOnReset ∨ m = .standbyExitReset) ∧ t.tick = 0#32) := by
  cases m with
  | portC => exact .inl (congrArg Unwritten.tick (portCTurn_unwritten h))
  | portP => exact .inl (congrArg Unwritten.tick (portPTurn_unwritten h))
  | evTick =>
    cases h
    obtain ⟨hi, hk, he⟩ | he := evTick_cases s
    · exact .inr (.inl ⟨rfl, hi, hk, by rw [he]⟩)
    · exact .inl (by rw [he])
  | evRtcMs | evRegRdy | evClkRdy | evWkup | evExtIrq => cases h; exact .inl (tick_eq_of_unwritten (by simp))
  | powerOnReset => cases h; exact .inr (.inr ⟨.inl rfl, powerOnReset_tick s⟩)
  | standbyExitReset =>
    cases h
    obtain hz | he := evStandbyExit_cases s
    · exact .inr (.inr ⟨.inr rfl, hz⟩)
    · exact .inl (by rw [he])

/-- Settles O11: a recorded fault leaves `TICK`, and the moving agent's step is one of `agentTurn_tick`'s cases. -/
theorem onlyTheTickInterruptAndResetsWriteTick : Obligations.OnlyTheTickInterruptAndResetsWriteTick := by
  intro s t h hne
  obtain ⟨-, ha | ⟨r, -, rfl⟩⟩ := machineStep_next h
  · exact (agentTurn_tick ha).resolve_left hne
  · exact absurd rfl hne

end Sys2Proof.Machine
end

section
/-! PROOFS. Power Mode Controller (42_power_modes.md): the environment events, each the one field it writes. -/

namespace Sys2Proof.Machine

/-- R34: what `IntCtx` says. -/
theorem intCtx_eq_true_iff (p : Pwr) : intCtx p = true ↔ p.gie = true ∧ p.pstate = .active := by
  unfold intCtx
  rw [Bool.and_eq_true, decide_eq_true_iff]

/-- EV_WKUP(p) sets `WUF` exactly when pin p is enabled (R175). -/
theorem evWkup_eq (p : Fin 3) (s : State) :
    evWkup p s = if s.pwr.wupen.getLsbD p.val = true then { s with pwr := { s.pwr with wuf := true } } else s := rfl

/-- EV_EXTIRQ leaves the interrupt pending exactly when no handler can run (R176). -/
theorem evExtIrq_eq (s : State) :
    evExtIrq s =
      if s.pwr.gie = true ∧ s.pwr.pstate = .active then s else { s with pwr := { s.pwr with extpend := true } } :=
  if_congr (intCtx_eq_true_iff s.pwr) rfl rfl

/-- When EV_REGRDY is enabled: main mode is requested and not yet confirmed (R177). -/
theorem evRegRdy_enabled_iff (p : Pwr) :
    (!p.lpreg && p.reglpf) = true ↔ p.lpreg = false ∧ p.reglpf = true := by
  rw [Bool.and_eq_true, Bool.not_eq_true']

/-- EV_REGRDY clears `REGLPF` exactly when it is enabled (R177). -/
theorem evRegRdy_eq (s : State) :
    evRegRdy s =
      if s.pwr.lpreg = false ∧ s.pwr.reglpf = true then { s with pwr := { s.pwr with reglpf := false } } else s :=
  if_congr (evRegRdy_enabled_iff s.pwr) rfl rfl

/-- Settles O42: each event's equation, its enabling condition read as the rule states it. -/
theorem powerEventsWriteOneFlag : Obligations.PowerEventsWriteOneFlag :=
  fun s => ⟨fun p => evWkup_eq p s, evExtIrq_eq s, evRegRdy_eq s⟩

end Sys2Proof.Machine
end

section
/-! PROOFS. RTC Wake Engine (43_rtc_wake.md): what `Arm` writes (R213). -/

namespace Sys2Proof.Machine

/-! ### The two targets -/

/-- The scaled duration is below 2^42, so the 64-bit product is exact (R97, R213). -/
@[simp] theorem millisOfSeconds_toNat (d : Word) : (millisOfSeconds d).toNat = 1000 * d.toNat := by
  have hd : d.toNat < 2 ^ 32 := d.isLt
  have hw : (d.setWidth 64).toNat = d.toNat := BitVec.toNat_setWidth_of_le (by decide)
  rw [millisOfSeconds, BitVec.toNat_mul, hw]
  exact Nat.mod_eq_of_lt (by simp only [BitVec.toNat_ofNat]; omega)

/-- The alarm's target, in numbers. -/
theorem add_millisOfSeconds (c : Dword) (d : Word) :
    c + millisOfSeconds d = BitVec.ofNat 64 (c.toNat + 1000 * d.toNat) := by
  rw [BitVec.add_def, millisOfSeconds_toNat]

/-- The wake-up timer's first match, in numbers. -/
theorem add_setWidth_word (c : Dword) (d : Word) : c + d.setWidth 64 = BitVec.ofNat 64 (c.toNat + d.toNat) := by
  rw [BitVec.add_def, BitVec.toNat_setWidth_of_le (by decide)]

/-! ### `Arm` by its cases -/

/-- `Arm` on an RTC that is not initialised (R213, D21). -/
theorem arm_faults {s : State} (h : s.rtc.src = .none) (u : TimeUnit) (d : Word) :
    arm u d s = .faults .rtcNotInitialised := if_pos h

/-- `Arm` past its check writes the RTC domain alone. -/
theorem arm_done {s : State} (h : s.rtc.src ≠ .none) (u : TimeUnit) (d : Word) :
    arm u d s = .done { s with rtc := armRtc u d s.rtc } := if_neg h

@[simp] theorem armRtc_seconds_zero (r : Rtc) : armRtc .seconds 0#32 r = disarmAlarm r := rfl

@[simp] theorem armRtc_milliseconds_zero (r : Rtc) : armRtc .milliseconds 0#32 r = disarmTimer r := rfl

theorem armRtc_seconds_of_ne_zero {d : Word} (hd : d ≠ 0#32) (r : Rtc) :
    armRtc .seconds d r = armAlarm (millisOfSeconds d) r := if_neg hd

theorem armRtc_milliseconds_of_ne_zero {d : Word} (hd : d ≠ 0#32) (r : Rtc) :
    armRtc .milliseconds d r = armTimer d r := if_neg hd

/-- Settles O26: `Arm` by its check, the unit and the duration, its 64-bit targets read as numbers modulo 2^64. -/
theorem armWritesOneComparator : Obligations.ArmWritesOneComparator := by
  intro s d
  refine ⟨fun hn u => arm_faults hn u d, fun hs hd => ?disarmed, fun hs hd => ?armed⟩
  case disarmed =>
    subst hd
    constructor
    · rw [arm_done hs, armRtc_seconds_zero, disarmAlarm]
    · rw [arm_done hs, armRtc_milliseconds_zero, disarmTimer]
  case armed =>
    constructor
    · rw [arm_done hs, armRtc_seconds_of_ne_zero hd, armAlarm, add_millisOfSeconds]
    · rw [arm_done hs, armRtc_milliseconds_of_ne_zero hd, armTimer, add_setWidth_word]

end Sys2Proof.Machine
end

section
/-! PROOFS. Clock Controller (44_clock_controller.md): EV_CLKRDY by its enabling condition (R245). -/

namespace Sys2Proof.Machine

/-- EV_CLKRDY with no "ready" awaited: not enabled (R245). -/
theorem evClkRdy_of_wait_none {s : State} (h : s.clk.wait = .none) : evClkRdy s = s :=
  if_neg (not_not_intro h)

/-- EV_CLKRDY with a "ready" awaited (R245). -/
theorem evClkRdy_of_wait_ne_none {s : State} (h : s.clk.wait ≠ .none) :
    evClkRdy s = { s with clk := { s.clk with wait := .none } } := if_pos h

/-- Clearing a `CLK_WAIT` that is 0 already is no change. -/
theorem clear_wait_eq_self {s : State} (h : s.clk.wait = .none) :
    { s with clk := { s.clk with wait := .none } } = s := by
  rw [← h]

/-- Settles O36: `ClockTreeReset` by its definition; EV_CLKRDY by whether it is enabled, the clearing being no change
where it is not. -/
theorem clockTreeResetAndReady : Obligations.ClockTreeResetAndReady := by
  intro s
  refine ⟨rfl, ?ready⟩
  by_cases h : s.clk.wait = .none
  case pos => exact (evClkRdy_of_wait_none h).trans (clear_wait_eq_self h).symm
  case neg => exact evClkRdy_of_wait_ne_none h

end Sys2Proof.Machine
end

section
/-! PROOFS. Encoding (30_encoding.md): what each format accepts, and that decoding and encoding are inverse. -/

namespace Sys2Proof

/-! ### What each format accepts -/

@[simp] theorem whenZero_ok (w : Cmd) (zero : Bool) (ins ins' : Instr) :
    whenZero w zero ins = .ok ins' ↔ zero = true ∧ ins = ins' := by
  unfold whenZero
  split <;> simp_all

@[simp] theorem formatZ_ok (w : Cmd) (ins ins' : Instr) :
    formatZ w ins = .ok ins' ↔ (idxField w = 0#8 ∧ argField w = 0#32) ∧ ins = ins' := by
  simp [formatZ]

@[simp] theorem formatI_ok (w : Cmd) (mk : Byte → Instr) (ins : Instr) :
    formatI w mk = .ok ins ↔ argField w = 0#32 ∧ mk (idxField w) = ins := by
  simp [formatI]

@[simp] theorem formatB_ok (w : Cmd) (mk : Byte → Byte → Instr) (ins : Instr) :
    formatB w mk = .ok ins ↔
      (argField w).extractLsb' 8 24 = 0#24 ∧ mk (idxField w) ((argField w).extractLsb' 0 8) = ins := by
  simp [formatB]

@[simp] theorem formatA_ok (w : Cmd) (mk : Word → Instr) (ins : Instr) :
    formatA w mk = .ok ins ↔ idxField w = 0#8 ∧ mk (argField w) = ins := by
  simp [formatA]

@[simp] theorem formatIA_ok (w : Cmd) (mk : Byte → Word → Instr) (ins : Instr) :
    formatIA w mk = .ok ins ↔ mk (idxField w) (argField w) = ins := by
  simp [formatIA]

@[simp] theorem formatUA_ok (w : Cmd) (mk : TimeUnit → Word → Instr) (ins : Instr) :
    formatUA w mk = .ok ins ↔
      (idxField w).extractLsb' 1 7 = 0#7 ∧ mk (unitOfBit ((idxField w).getLsbD 0)) (argField w) = ins := by
  simp only [formatUA, whenZero_ok, beq_iff_eq]

/-! ### Decoding and encoding are inverse -/

/-- Settles O1: by the command; the fields of its word are its opcode and operands, and its format accepts them. -/
theorem decodeOfEncodeIsTheCommand : Obligations.DecodeOfEncodeIsTheCommand := by
  intro ins
  cases ins <;> simp [decode, Instr.opcode, Instr.idx, Instr.arg]

/-- The three fields of a word that decodes are those of the command. -/
theorem fields_of_decode {w : Cmd} {ins : Instr} (h : decode w = .ok ins) :
    ins.opcode = opField w ∧ ins.idx = idxField w ∧ ins.arg = argField w := by
  unfold decode at h
  split at h
  case h_24 => cases h
  case h_21 hop => obtain rfl := (formatIA_ok w _ ins).mp h; exact ⟨hop.symm, rfl, rfl⟩
  case h_9 hop | h_10 hop | h_11 hop | h_12 hop =>
    obtain ⟨hz, rfl⟩ := (formatUA_ok w _ ins).mp h
    exact ⟨hop.symm, unitIdx_of_high _ hz, rfl⟩
  all_goals
    rename_i hop
    simp only [formatZ_ok, formatI_ok, formatB_ok, formatA_ok] at h
    obtain ⟨hz, rfl⟩ := h
    simp [hop, hz, Instr.opcode, Instr.idx, Instr.arg, byteArg_of_high]

/-- Settles O2: a command word is its three fields, and those are the command's. -/
theorem encodeOfDecodeIsTheWord : Obligations.EncodeOfDecodeIsTheWord := by
  intro w ins h
  obtain ⟨hop, hidx, harg⟩ := fields_of_decode h
  rw [encode, hop, hidx, harg, cmdOf_fields]

/-- Settles O4: each word evaluated by the decoder. -/
theorem specWordsDecode : Obligations.SpecWordsDecode := by
  refine ⟨?_, ?_, ?_, ?_, ?_, ?_, ?_, ?_, ?_⟩ <;> rfl

/-! ### The rows of the opcode table (R98) -/

/-- Two command words are the same when their three fields are. -/
theorem cmdOf_inj {op op' idx idx' : Byte} {arg arg' : Word} :
    cmdOf op idx arg = cmdOf op' idx' arg' ↔ op = op' ∧ idx = idx' ∧ arg = arg' := by
  refine ⟨fun h => ⟨?_, ?_, ?_⟩, fun ⟨h1, h2, h3⟩ => by rw [h1, h2, h3]⟩
  · simpa using congrArg opField h
  · simpa using congrArg idxField h
  · simpa using congrArg argField h

/-- AND works field by field. -/
theorem cmdOf_and (op op' idx idx' : Byte) (arg arg' : Word) :
    cmdOf op idx arg &&& cmdOf op' idx' arg' = cmdOf (op &&& op') (idx &&& idx') (arg &&& arg') := by
  refine BitVec.eq_of_getLsbD_eq fun i _ => ?_
  simp only [BitVec.getLsbD_and, getLsbD_cmdOf]
  split
  · rfl
  · split <;> rfl

/-- `w AND mask = match` on the fields: the opcode is the row's, and the bits of the mask in `idx` and `arg` are 0. -/
theorem and_eq_pattern_iff (w : Cmd) (op mi : Byte) (ma : Word) :
    w &&& cmdOf 0xFF#8 mi ma = cmdOf op 0#8 0#32 ↔
      opField w = op ∧ idxField w &&& mi = 0#8 ∧ argField w &&& ma = 0#32 := by
  conv_lhs => rw [← cmdOf_fields w]
  rw [cmdOf_and, cmdOf_inj, show opField w &&& 0xFF#8 = opField w from BitVec.and_allOnes]

/-- The unit format's zero bits of `idx`. -/
theorem and_unitMask (x : Byte) : x &&& 0xFE#8 = 0#8 ↔ x.extractLsb' 1 7 = 0#7 := by
  revert x; decide

/-- The byte format's zero bits of `arg`. -/
theorem and_byteMask (x : Word) : x &&& 0xFFFFFF00#32 = 0#32 ↔ x.extractLsb' 8 24 = 0#24 := by
  have hm : ∀ i < 32, (0xFFFFFF00#32).getLsbD i = decide (8 ≤ i) := by decide
  constructor
  · intro h
    refine BitVec.eq_of_getLsbD_eq fun i hi => ?_
    have hb := congrArg (fun y => y.getLsbD (8 + i)) h
    rw [BitVec.getLsbD_and, hm (8 + i) (by omega)] at hb
    simpa [hi] using hb
  · intro h
    refine BitVec.eq_of_getLsbD_eq fun i hi => ?_
    rw [← byteArg_of_high x h, BitVec.getLsbD_and, hm i hi, getLsbD_byteArg]
    by_cases h8 : i < 8 <;> simp [h8]

/-- A row selects exactly the words that decode to a command with its opcode and port. -/
def OpRow.Decodes (r : OpRow) : Prop :=
  ∀ w : Cmd, r.selects w = true ↔ ∃ ins, decode w = .ok ins ∧ ins.opcode = r.op ∧ ins.port = r.port

/-- The row of an opcode whose words decode, when the bits of its mask are 0, to commands with that opcode. -/
theorem OpRow.Decodes.of_fields {op mi : Byte} {ma : Word} {port : Port} {pattern mask : Cmd} {mk : Cmd → Instr}
    (hp : pattern = cmdOf op 0#8 0#32) (hm : mask = cmdOf 0xFF#8 mi ma)
    (hdec : ∀ w, opField w = op → ∀ ins,
      decode w = .ok ins ↔ (idxField w &&& mi = 0#8 ∧ argField w &&& ma = 0#32) ∧ mk w = ins)
    (hmk : ∀ w, (mk w).opcode = op ∧ (mk w).port = port) : OpRow.Decodes ⟨op, port, pattern, mask⟩ := by
  intro w
  simp only [OpRow.selects, hp, hm, beq_iff_eq, and_eq_pattern_iff]
  constructor
  · rintro ⟨hop, hz⟩
    exact ⟨mk w, (hdec w hop _).mpr ⟨hz, rfl⟩, hmk w⟩
  · rintro ⟨ins, hd, ho, -⟩
    have hop : opField w = op := (fields_of_decode hd).1.symm.trans ho
    exact ⟨hop, ((hdec w hop ins).mp hd).1⟩

theorem OpRow.Decodes.ofZ {op : Byte} {port : Port} {pattern : Cmd} (ins : Instr)
    (hp : pattern = cmdOf op 0#8 0#32 := by rfl)
    (hdec : ∀ w, opField w = op → decode w = formatZ w ins := by intro w h; simp only [decode, h])
    (hi : ins.opcode = op ∧ ins.port = port := by exact ⟨rfl, rfl⟩) :
    OpRow.Decodes ⟨op, port, pattern, maskZ⟩ := by
  refine of_fields (mk := fun _ => ins) hp (show maskZ = cmdOf 0xFF#8 0xFF#8 0xFFFFFFFF#32 from rfl) ?_ fun _ => hi
  intro w h ins'
  rw [hdec w h, formatZ_ok, show idxField w &&& 0xFF#8 = idxField w from BitVec.and_allOnes,
    show argField w &&& 0xFFFFFFFF#32 = argField w from BitVec.and_allOnes]

theorem OpRow.Decodes.ofI {op : Byte} {port : Port} {pattern : Cmd} (mk : Byte → Instr)
    (hp : pattern = cmdOf op 0#8 0#32 := by rfl)
    (hdec : ∀ w, opField w = op → decode w = formatI w mk := by intro w h; simp only [decode, h])
    (hi : ∀ x, (mk x).opcode = op ∧ (mk x).port = port := by exact fun _ => ⟨rfl, rfl⟩) :
    OpRow.Decodes ⟨op, port, pattern, maskI⟩ := by
  refine of_fields (mk := fun w => mk (idxField w)) hp (show maskI = cmdOf 0xFF#8 0#8 0xFFFFFFFF#32 from rfl) ?_
    fun _ => hi _
  intro w h ins
  rw [hdec w h, formatI_ok, show argField w &&& 0xFFFFFFFF#32 = argField w from BitVec.and_allOnes]
  simp

theorem OpRow.Decodes.ofB {op : Byte} {port : Port} {pattern : Cmd} (mk : Byte → Byte → Instr)
    (hp : pattern = cmdOf op 0#8 0#32 := by rfl)
    (hdec : ∀ w, opField w = op → decode w = formatB w mk := by intro w h; simp only [decode, h])
    (hi : ∀ x y, (mk x y).opcode = op ∧ (mk x y).port = port := by exact fun _ _ => ⟨rfl, rfl⟩) :
    OpRow.Decodes ⟨op, port, pattern, maskB⟩ := by
  refine of_fields (mk := fun w => mk (idxField w) ((argField w).extractLsb' 0 8)) hp
    (show maskB = cmdOf 0xFF#8 0#8 0xFFFFFF00#32 from rfl) ?_ fun _ => hi _ _
  intro w h ins
  rw [hdec w h, formatB_ok, and_byteMask]
  simp

theorem OpRow.Decodes.ofA {op : Byte} {port : Port} {pattern : Cmd} (mk : Word → Instr)
    (hp : pattern = cmdOf op 0#8 0#32 := by rfl)
    (hdec : ∀ w, opField w = op → decode w = formatA w mk := by intro w h; simp only [decode, h])
    (hi : ∀ x, (mk x).opcode = op ∧ (mk x).port = port := by exact fun _ => ⟨rfl, rfl⟩) :
    OpRow.Decodes ⟨op, port, pattern, maskA⟩ := by
  refine of_fields (mk := fun w => mk (argField w)) hp (show maskA = cmdOf 0xFF#8 0xFF#8 0#32 from rfl) ?_
    fun _ => hi _
  intro w h ins
  rw [hdec w h, formatA_ok, show idxField w &&& 0xFF#8 = idxField w from BitVec.and_allOnes]
  simp

theorem OpRow.Decodes.ofIA {op : Byte} {port : Port} {pattern : Cmd} (mk : Byte → Word → Instr)
    (hp : pattern = cmdOf op 0#8 0#32 := by rfl)
    (hdec : ∀ w, opField w = op → decode w = formatIA w mk := by intro w h; simp only [decode, h])
    (hi : ∀ x y, (mk x y).opcode = op ∧ (mk x y).port = port := by exact fun _ _ => ⟨rfl, rfl⟩) :
    OpRow.Decodes ⟨op, port, pattern, maskIA⟩ := by
  refine of_fields (mk := fun w => mk (idxField w) (argField w)) hp
    (show maskIA = cmdOf 0xFF#8 0#8 0#32 from rfl) ?_ fun _ => hi _ _
  intro w h ins
  rw [hdec w h, formatIA_ok]
  simp

theorem OpRow.Decodes.ofUA {op : Byte} {port : Port} {pattern : Cmd} (mk : TimeUnit → Word → Instr)
    (hp : pattern = cmdOf op 0#8 0#32 := by rfl)
    (hdec : ∀ w, opField w = op → decode w = formatUA w mk := by intro w h; simp only [decode, h])
    (hi : ∀ x y, (mk x y).opcode = op ∧ (mk x y).port = port := by exact fun _ _ => ⟨rfl, rfl⟩) :
    OpRow.Decodes ⟨op, port, pattern, maskUA⟩ := by
  refine of_fields (mk := fun w => mk (unitOfBit ((idxField w).getLsbD 0)) (argField w)) hp
    (show maskUA = cmdOf 0xFF#8 0xFE#8 0#32 from rfl) ?_ fun _ => hi _ _
  intro w h ins
  rw [hdec w h, formatUA_ok, and_unitMask]
  simp

/-- Every row selects what decodes to its command: the row's format is the one the decoder uses for its opcode. -/
theorem opcodeTable_decodes : ∀ r ∈ opcodeTable, r.Decodes := by
  simp only [opcodeTable, List.cons_append, List.nil_append, List.forall_mem_cons, List.not_mem_nil, false_implies,
    implies_true, and_true]
  exact ⟨.ofB .csrRead, .ofZ .millis, .ofB .rbInsert, .ofI .rbAvail, .ofI .rbRead,
    .ofI .rbPeek, .ofB .rbRdUntil, .ofI .rbInit, .ofUA .pmSleep, .ofUA .pmLpSleep,
    .ofUA .pmStop, .ofUA .pmLpStop, .ofZ .pmStopIrq, .ofZ .pmStandby,
    .ofA .pmStandbySec, .ofI .pmStandbyPin, .ofI .rtcInit, .ofA .rtcArmSec,
    .ofA .rtcArmMs, .ofI .bkpRead, .ofIA .bkpWrite, .ofI .clkSelect, .ofZ .clkCurrent⟩

/-- A word whose opcode is in no row is rejected by name (R100 (a)). -/
theorem decode_of_unknown {w : Cmd} (h : ∀ r ∈ opcodeTable, r.op ≠ opField w) :
    decode w = .error (.unknownOp (opField w)) := by
  simp only [opcodeTable, List.cons_append, List.nil_append, List.forall_mem_cons, List.not_mem_nil, false_implies,
    implies_true, and_true, ne_eq, ← eq_comm (a := opField w)] at h
  simp [decode, h]

/-- Settles O3: the rows decode as their formats say, no two rows share an opcode, and the decoder names an opcode of no
row. -/
theorem tableRowsSelectWhatDecodes : Obligations.TableRowsSelectWhatDecodes := by
  refine ⟨rfl, fun r hr w => opcodeTable_decodes r hr w, ?disjoint, fun w h => decode_of_unknown h⟩
  case disjoint =>
    intro r hr r' hr' w h h'
    obtain ⟨ins, hd, ho, -⟩ := (opcodeTable_decodes r hr w).mp h
    obtain ⟨ins', hd', ho', -⟩ := (opcodeTable_decodes r' hr' w).mp h'
    have hins : ins = ins' := Except.ok.inj (hd.symm.trans hd')
    have hop : r.op = r'.op := by rw [← ho, ← ho', hins]
    exact (by decide : ∀ r ∈ opcodeTable, ∀ r' ∈ opcodeTable, r.op = r'.op → r = r') r hr r' hr' hop

end Sys2Proof
end

section
/-! PROOFS. The dispatch: a command accepted on an idle port C is that command placed at its first step, and a command in
flight runs its own step list. -/

namespace Sys2Proof.Machine

/-! ### Acceptance -/

/-- The first step of a command's list (R120 to R260). `RB_INSERT`, the command of port P, has no list; its value is not
read. -/
def firstStep : Instr → StepName
  | .csrRead _ _ => .X1
  | .millis => .M1
  | .rbInsert _ _ => .X1
  | .rbAvail _ => .A1
  | .rbRead _ => .D1
  | .rbPeek _ => .P1
  | .rbRdUntil _ _ => .U1
  | .rbInit _ => .Z1
  | .pmSleep _ _ => .E1
  | .pmLpSleep _ _ => .E1
  | .pmStop _ _ => .E1
  | .pmLpStop _ _ => .E1
  | .pmStopIrq => .Q1
  | .pmStandby => .B1
  | .pmStandbySec _ => .B1
  | .pmStandbyPin _ => .B1
  | .rtcInit _ => .I1
  | .rtcArmSec _ => .S1
  | .rtcArmMs _ => .T1
  | .bkpRead _ => .G1
  | .bkpWrite _ _ => .H1
  | .clkSelect _ => .K .k1
  | .clkCurrent => .V1

/-- The command just accepted: at its first step, no response driven. -/
def accepted (ins : Instr) (s : State) : State :=
  { s with seq := .busy (Flight.start ins (firstStep ins)), rspC := none }

/-- A port-C command on an idle port runs as if it were in flight at its first step, or is answered ILLEGAL. -/
theorem onPortC_accept {ins : Instr} {legal : State → Bool} {first : StepName} {body : Flight → State → Out} {s : State}
    (h : s.seq = .idle) (hfirst : firstStep ins = first) :
    onPortC ins (legal s) first body s =
      if legal s = true then onPortC ins (legal (accepted ins s)) first body (accepted ins s)
      else .next (illegalC s) := by
  subst hfirst
  rw [onPortC_idle h, onPortC_busy (ins := ins) (s := accepted ins s) rfl rfl]
  rfl

/-- R100 (c), R101 (4): acceptance checks the operands; a command that passes runs its first step. -/
theorem exec_idle {ins : Instr} {s : State} (hp : ins.port = .C) (h : s.seq = .idle) :
    exec ins s = if ins.wellFormed s.cfg = true then exec ins (accepted ins s) else .next (illegalC s) := by
  cases ins with
  | rbInsert i b => cases hp
  | csrRead n b => rw [← csrLegal_eq]; unfold exec execCsrRead; exact onPortC_accept h rfl
  | rtcInit src =>
    rw [← rtcSourceLegal_eq]; unfold exec execRtcInit
    exact onPortC_accept (legal := fun _ => rtcSourceLegal src) h rfl
  | rbAvail i | rbRead i | rbPeek i | rbRdUntil i _ | rbInit i =>
    simp only [exec, execRbAvail, execRbRead, execRbPeek, execRbRdUntil, execRbInit]
    exact onPortC_accept (legal := ringLegal i) h rfl
  | bkpRead k | bkpWrite k _ =>
    simp only [exec, execBkpRead, execBkpWrite]
    exact onPortC_accept (legal := fun _ => bkpLegal k) h rfl
  | pmStandbyPin p => unfold exec execPmStandbyPin; exact onPortC_accept (legal := fun _ => pinLegal p) h rfl
  | clkSelect c => unfold exec execClkSelect; exact onPortC_accept (legal := clkLegal c) h rfl
  | millis | pmSleep | pmLpSleep | pmStop | pmLpStop | pmStopIrq | pmStandby | pmStandbySec | rtcArmSec | rtcArmMs
  | clkCurrent =>
    simp only [exec, execMillis, execPmSleep, execPmLpSleep, execPmStop, execPmLpStop, execPmStopIrq, execPmStandby,
      execPmStandbySec, execRtcArmSec, execRtcArmMs, execClkCurrent]
    exact onPortC_accept (legal := fun _ => true) h rfl

/-- A command whose operands are in range is accepted. -/
theorem exec_accept {ins : Instr} {s : State} (hp : ins.port = .C) (h : s.seq = .idle)
    (hw : ins.wellFormed s.cfg = true) : exec ins s = exec ins (accepted ins s) := by
  rw [exec_idle hp h, if_pos hw]

/-- A command with an operand out of range is answered ILLEGAL. -/
theorem exec_illegal {ins : Instr} {s : State} (hp : ins.port = .C) (h : s.seq = .idle)
    (hw : ins.wellFormed s.cfg = false) : exec ins s = .next (illegalC s) := by
  rw [exec_idle hp h, hw]; rfl

/-! ### The families of commands -/

/-- A timed command in flight runs its step list with its own `lp`, `deep` and operands (R162 to R165). -/
theorem exec_timed {ins : Instr} {lp deep : Bool} {u : TimeUnit} {d : Word} (ht : timedOf ins = some (lp, deep, u, d))
    (st : StepName) (h : Nat) (v : Byte) (n : Word) (c : ClkId) (s : State) :
    exec ins (atStep ins st h v n c s) = timedStep lp deep u d ⟨ins, st, h, v, n, c⟩ (atStep ins st h v n c s) := by
  cases ins <;> cases ht <;> simp only [exec, execPmSleep, execPmLpSleep, execPmStop, execPmLpStop, onPortC_atStep] <;>
    rfl

/-- The steps W1 to W6 (R168). -/
def wakeListStep : StepName → Bool
  | .W1 | .W2 | .W3 | .W4 _ | .W5 | .W6 => true
  | _ => false

/-- What follows W6 (R161, R169): the answer of `PM_STOP_IRQ`, or W7 of a timed command. -/
def afterWakeList (f : Flight) : State → State :=
  if f.ins = .pmStopIrq then respondC .ok 0#32 else goto f .W7

/-- The commands that run the Wake list. -/
theorem wakes_iff {ins : Instr} : wakes ins = true ↔ ins = .pmStopIrq ∨ (timedOf ins).isSome = true := by
  simp [wakes, or_comm]

/-- A command that wakes runs the one Wake list (R168). -/
theorem exec_wakes {ins : Instr} (hw : wakes ins = true) {st : StepName} (hst : wakeListStep st = true)
    (h : Nat) (v : Byte) (n : Word) (c : ClkId) (s : State) :
    exec ins (atStep ins st h v n c s) =
      wakeStep (afterWakeList ⟨ins, st, h, v, n, c⟩) (.refused .notAStep) ⟨ins, st, h, v, n, c⟩
        (atStep ins st h v n c s) := by
  rcases wakes_iff.mp hw with rfl | ht
  · simp only [exec, execPmStopIrq, onPortC_atStep]
    cases st <;> cases hst <;> rfl
  · obtain ⟨⟨lp, deep, u, d⟩, ht⟩ := Option.isSome_iff_exists.mp ht
    rw [exec_timed ht]
    have hi : ins ≠ .pmStopIrq := by rintro rfl; cases ht
    cases st <;> cases hst <;> simp only [timedStep, afterWakeList, if_neg hi]

/-- Where a standby command goes after B3 (R171 to R173): `PM_STANDBY` has no B4. -/
def afterB3 (ins : Instr) : StepName := if ins = .pmStandby then .B5 else .B4

/-- B4 of a standby command (R171 to R173). -/
def standbyB4 (f : Flight) (s : State) : Out :=
  match f.ins with
  | .pmStandbySec d => (arm .seconds d s).andThen s (goto f .B5)
  | .pmStandbyPin p => .next (goto f .B5 (onPwr (fun q => { q with wupen := enablePin p q.wupen }) s))
  | _ => .refused .notAStep

/-- A standby command runs the one entry list (R170). -/
theorem exec_standby {ins : Instr} (hi : isStandby ins = true) (st : StepName) (h : Nat) (v : Byte) (n : Word)
    (c : ClkId) (s : State) :
    exec ins (atStep ins st h v n c s) =
      standbyStep (afterB3 ins) (standbyB4 ⟨ins, st, h, v, n, c⟩) ⟨ins, st, h, v, n, c⟩ (atStep ins st h v n c s) := by
  cases ins <;> cases hi
  all_goals
    simp only [exec, execPmStandby, execPmStandbySec, execPmStandbyPin, onPortC_atStep]
    rfl

theorem timed_port {ins : Instr} (ht : (timedOf ins).isSome = true) : ins.port = .C := by
  cases ins <;> cases ht <;> rfl

theorem timed_wellFormed {ins : Instr} (ht : (timedOf ins).isSome = true) (p : Params) :
    ins.wellFormed p = true := by
  cases ins <;> cases ht <;> rfl

theorem timed_firstStep {ins : Instr} (ht : (timedOf ins).isSome = true) : firstStep ins = .E1 := by
  cases ins <;> cases ht <;> rfl

theorem standby_port {ins : Instr} (hi : isStandby ins = true) : ins.port = .C := by
  cases ins <;> cases hi <;> rfl

theorem standby_firstStep {ins : Instr} (hi : isStandby ins = true) : firstStep ins = .B1 := by
  cases ins <;> cases hi <;> rfl

/-- A command accepted is placed as statements place it. -/
theorem accepted_eq (ins : Instr) (s : State) :
    accepted ins s = atStep ins (firstStep ins) 0 0#8 0#32 0#8 { s with rspC := none } := rfl

end Sys2Proof.Machine
end

section
/-! PROOFS. The commands step by step: each step's whole next state, from its rule. -/

namespace Sys2Proof.Machine

/-! ### One-step commands -/

/-- Settles O9: each is accepted and its one step answers the register. -/
theorem millisAndClockCurrentAnswerARegister : Obligations.MillisAndClockCurrentAnswerARegister := by
  intro s h
  constructor
  · rw [exec_accept rfl h rfl, accepted_eq]
    simp only [exec, execMillis, onPortC_atStep]
    rfl
  · rw [exec_accept rfl h rfl, accepted_eq]
    simp only [exec, execClkCurrent, onPortC_atStep]
    rfl

/-- Settles O20: `RB_INIT` is accepted and its one step writes both cursors. -/
theorem initEmptiesTheRing : Obligations.InitEmptiesTheRing := by
  intro s i hi h
  rw [exec_accept (ins := .rbInit i) rfl h (decide_eq_true hi), accepted_eq]
  simp only [exec, execRbInit, onPortC_atStep]
  rfl

/-- An arm step on an initialised RTC, of a command in flight (R213). -/
theorem arm_atStep {s : State} (hs : s.rtc.src ≠ .none) {u : TimeUnit} {d : Word} {ins : Instr} {st : StepName} {h : Nat}
    {v : Byte} {n : Word} {c : ClkId} :
    arm u d (atStep ins st h v n c s) = .done (atStep ins st h v n c { s with rtc := armRtc u d s.rtc }) :=
  if_neg hs

/-- An arm step on an RTC that is not initialised, of a command in flight (R213, D21). -/
theorem arm_atStep_fault {s : State} (hs : s.rtc.src = .none) {u : TimeUnit} {d : Word} {ins : Instr} {st : StepName}
    {h : Nat} {v : Byte} {n : Word} {c : ClkId} :
    arm u d (atStep ins st h v n c s) = .faults .rtcNotInitialised := if_pos hs

/-- `RTC_INIT` of a legal source. -/
theorem exec_rtcInit {src : Byte} {x : RtcSrc} (hx : rtcSource src = some x) {s : State} (h : s.seq = .idle) :
    exec (.rtcInit src) s =
      .next { s with rtc := { s.rtc with src := x }, seq := .idle, rspC := some ⟨.ok, 0#32⟩ } := by
  have hw : (Instr.rtcInit src).wellFormed s.cfg = true := by
    rw [← rtcSourceLegal_eq, rtcSourceLegal, hx, Option.isSome_some]
  rw [exec_accept rfl h hw, accepted_eq]
  simp only [exec, execRtcInit, onPortC_atStep, hx]
  rfl

/-- Settles O27: each is accepted and runs its one step, the arm commands on an initialised RTC. -/
theorem rtcCommandsInOneStep : Obligations.RtcCommandsInOneStep := by
  intro s h
  refine ⟨exec_rtcInit rfl h, exec_rtcInit rfl h, fun d hs => ⟨?sec, ?ms⟩⟩
  case sec =>
    rw [exec_accept rfl h rfl, accepted_eq]
    simp only [exec, execRtcArmSec, onPortC_atStep, firstStep, arm_atStep (s := { s with rspC := none }) hs]
    rfl
  case ms =>
    rw [exec_accept rfl h rfl, accepted_eq]
    simp only [exec, execRtcArmMs, onPortC_atStep, firstStep, arm_atStep (s := { s with rspC := none }) hs]
    rfl

/-- A backup write in bounds. -/
theorem setIfInBounds_eq_set {v : Vector Word 5} {k : Nat} (hk : k < 5) (w : Word) : v.setIfInBounds k w = v.set k w :=
  Vector.ext fun i hi => by rw [Vector.getElem_setIfInBounds, Vector.getElem_set]

/-- Settles O28: each is accepted; the index is in the vector. -/
theorem backupRegistersReadAndWrite : Obligations.BackupRegistersReadAndWrite := by
  intro s k w hk h
  constructor
  · rw [exec_accept (ins := .bkpRead k) rfl h (decide_eq_true hk), accepted_eq]
    simp only [exec, execBkpRead, onPortC_atStep, firstStep, bkpGet, atStep_rtc, Vector.getElem?_eq_getElem hk]
    rfl
  · rw [exec_accept (ins := .bkpWrite k w) rfl h (decide_eq_true hk), accepted_eq]
    simp only [exec, execBkpWrite, onPortC_atStep, firstStep, bkpSet, atStep_rtc]
    rw [setIfInBounds_eq_set hk]
    rfl

/-- `CSR_READ` answers the CSR as it stands when the command has been accepted. -/
theorem exec_csrRead {n b : Byte} {s : State} (h : s.seq = .idle)
    (hw : (Instr.csrRead n b).wellFormed s.cfg = true) :
    exec (.csrRead n b) s =
      .next { s with seq := .idle, rspC := some ⟨.ok, csrWord n b (accepted (.csrRead n b) s)⟩ } := by
  rw [exec_accept rfl h hw, accepted_eq]
  simp only [exec, execCsrRead, onPortC_atStep]
  rfl

/-- Settles O51: register by register; `SEQSR` shows the opcode of the `CSR_READ` itself (R49). -/
theorem csrReadAnswersTheRegister : Obligations.CsrReadAnswersTheRegister := by
  intro s h
  refine ⟨fun n w hmem => ?plain, fun b hb => ⟨?head, ?tail⟩⟩
  case plain =>
    simp only [List.mem_cons, Prod.mk.injEq, List.not_mem_nil, or_false] at hmem
    rcases hmem with ⟨rfl, rfl⟩ | ⟨rfl, rfl⟩ | ⟨rfl, rfl⟩ | ⟨rfl, rfl⟩ | ⟨rfl, rfl⟩ | ⟨rfl, rfl⟩ | ⟨rfl, rfl⟩ |
      ⟨rfl, rfl⟩ | ⟨rfl, rfl⟩ | ⟨rfl, rfl⟩ | ⟨rfl, rfl⟩ | ⟨rfl, rfl⟩ <;> exact exec_csrRead h rfl
  case head => exact exec_csrRead h (decide_eq_true (.inr ⟨by decide, hb⟩))
  case tail => exact exec_csrRead h (decide_eq_true (.inr ⟨by decide, hb⟩))

/-! ### Ring commands -/

/-- Settles O16: A1 keeps `HEAD` in `h`, and A2 counts from it. -/
theorem availStepByStep : Obligations.AvailStepByStep := by
  intro s i h v n c hi
  constructor
  · intro hs
    rw [exec_accept (ins := .rbAvail i) rfl hs (decide_eq_true hi), accepted_eq]
    simp only [exec, execRbAvail, onPortC_atStep]
    rfl
  · simp only [exec, execRbAvail, onPortC_atStep]
    rfl

/-- Settles O17: each step of the list, D2 by whether the snapshot meets `TAIL`. -/
theorem readStepByStep : Obligations.ReadStepByStep := by
  intro s i h v n c hi
  refine ⟨fun hs => ?first, ?_⟩
  case first =>
    rw [exec_accept (ins := .rbRead i) rfl hs (decide_eq_true hi), accepted_eq]
    simp only [exec, execRbRead, onPortC_atStep]
    rfl
  simp only [exec, execRbRead, onPortC_atStep]
  exact ⟨fun he => if_pos he, fun he => if_neg he, rfl, rfl⟩

/-- Settles O18: each step of the list, P2 by whether the snapshot meets `TAIL`. -/
theorem peekStepByStep : Obligations.PeekStepByStep := by
  intro s i h v n c hi
  refine ⟨fun hs => ?first, ?_⟩
  case first =>
    rw [exec_accept (ins := .rbPeek i) rfl hs (decide_eq_true hi), accepted_eq]
    simp only [exec, execRbPeek, onPortC_atStep]
    rfl
  simp only [exec, execRbPeek, onPortC_atStep]
  exact ⟨fun he => if_pos he, fun he => if_neg he, rfl⟩

/-- Settles O19: each step of the list, U2 by whether the ring is empty, U4 by whether the byte is the terminator. -/
theorem readUntilStepByStep : Obligations.ReadUntilStepByStep := by
  intro s i t h v n c hi
  refine ⟨fun hs => ?first, ?_⟩
  case first =>
    rw [exec_accept (ins := .rbRdUntil i t) rfl hs (decide_eq_true hi), accepted_eq]
    simp only [exec, execRbRdUntil, onPortC_atStep]
    rfl
  simp only [exec, execRbRdUntil, onPortC_atStep]
  exact ⟨fun he => if_pos he, fun he => if_neg he, rfl, fun he => if_pos he, fun he => if_neg he⟩

/-! ### The clock steps -/

/-- A clock hold of a command in flight with a "ready" still awaited (R9, R242). -/
theorem clockHold_held {s : State} (hw : s.clk.wait ≠ .none) {g : Clk → Clk} {ins : Instr} {st : StepName} {h : Nat}
    {v : Byte} {n : Word} {c : ClkId} : clockHold (atStep ins st h v n c s) g = .held := if_neg hw

/-- A clock hold of a command in flight that passes writes the clock controller alone. -/
theorem clockHold_passes {s : State} (hw : s.clk.wait = .none) {g : Clk → Clk} {ins : Instr} {st : StepName} {h : Nat}
    {v : Byte} {n : Word} {c : ClkId} :
    clockHold (atStep ins st h v n c s) g = .done (atStep ins st h v n c { s with clk := g s.clk }) := if_pos hw

/-- A selectable id is none of the three names of R44 that no command selects. -/
theorem ne_clkNone_of_lt {p : Params} (hp : p.Legal) {c : ClkId} (hc : c.toNat < p.nClk) : c ≠ clkNone := by
  rintro rfl
  obtain ⟨-, -, -, hn⟩ := hp
  have hv : clkNone.toNat = 253 := rfl
  omega

/-- Settles O34: each step of `ClockApply`, the holds by `CLK_WAIT`. -/
theorem clockSelectStepByStep : Obligations.ClockSelectStepByStep := by
  intro s x h v n c hp hx
  refine ⟨fun hs => ?first, fun hw k hk => ?held, fun hw => ⟨?_, ?_, ?_⟩, ?_, ?_⟩
  case first =>
    rw [exec_accept (ins := .clkSelect x) rfl hs (decide_eq_true hx), accepted_eq]
    simp only [exec, execClkSelect, onPortC_atStep, firstStep, clockStep, if_neg (ne_clkNone_of_lt hp hx)]
    rfl
  case held =>
    rcases hk with rfl | rfl | rfl <;>
      simp only [exec, execClkSelect, onPortC_atStep, clockStep, clockHold_held hw, Act.andThen]
  iterate 3 simp only [exec, execClkSelect, onPortC_atStep, clockStep, clockHold_passes hw]; rfl
  iterate 2 simp only [exec, execClkSelect, onPortC_atStep, clockStep]; rfl

/-! ### Power commands -/

/-- The wake condition E12 as R167 writes it. -/
theorem timedWake_iff (s : State) :
    timedWake s = true ↔
      (s.pwr.rtcie = true ∧ rtcIrq s.rtc = true) ∨ (s.cfg.timedWaitExtWake = true ∧ s.pwr.extpend = true) := by
  simp [timedWake]

/-- Settles O38: each step of the entry list; the holds of the downclock by `CLK_WAIT`, E12 by the wake condition. -/
theorem timedEntryStepByStep : Obligations.TimedEntryStepByStep := by
  intro ins lp deep u d ht s h v n c
  have hsome : (timedOf ins).isSome = true := by rw [ht]; rfl
  refine ⟨fun hs => ?first, ?_⟩
  case first =>
    rw [exec_accept (timed_port hsome) hs (timed_wellFormed hsome _), accepted_eq, timed_firstStep hsome, exec_timed ht]
    rfl
  simp only [exec_timed ht]
  refine ⟨rfl, rfl, fun hs => ?arm, rfl, rfl, rfl, rfl, rfl, rfl, fun hw k hk => ?held,
    fun hw => ⟨?_, ?_, ?_⟩, rfl, ?wait⟩
  case arm => simp only [timedStep, arm_atStep hs]; rfl
  case held => rcases hk with rfl | rfl | rfl <;> simp only [timedStep, clockDownStep, clockStep, clockHold_held hw, Act.andThen]
  case wait =>
    simp only [timedStep, timedWake_iff, atStep_pwr, atStep_rtc, atStep_cfg]
    exact (apply_ite Host.Outcome.next _ _ _).symm
  all_goals
    simp only [timedStep, clockDownStep, clockStep, clockHold_passes hw]
    rfl

/-- Settles O39: each step of the Wake list, W2 by the regulator, the holds of the replay by `CLK_WAIT`. -/
theorem wakeListStepByStep : Obligations.WakeListStepByStep := by
  intro ins s h v n c hw
  refine ⟨?_, ?regulator, ?_, fun hc => ?replay, fun hwait k hk => ?held, fun hwait => ⟨?_, ?_, ?_⟩, ?_, ?_, ?_,
    fun hi => ?irq, fun lp deep u d ht => ⟨?w6, fun hs => ?w7⟩⟩
  case irq =>
    subst hi
    rw [exec_wakes hw rfl]
    rfl
  case w6 =>
    rw [exec_timed ht]
    rfl
  case w7 =>
    simp only [exec_timed ht, timedStep, arm_atStep hs]
    rfl
  case regulator =>
    rw [exec_wakes hw rfl]
    exact (apply_ite Host.Outcome.next _ _ _).symm
  case replay =>
    rw [exec_wakes hw rfl]
    simp only [wakeStep, replayed, clockStep, if_true, atStep_clk, if_neg hc]
    rfl
  case held =>
    rcases hk with rfl | rfl | rfl <;> rw [exec_wakes hw rfl] <;>
      simp only [wakeStep, clockStep, clockHold_held hwait, Act.andThen]
  iterate 2 rw [exec_wakes hw rfl]; rfl
  iterate 3 rw [exec_wakes hw rfl]; simp only [wakeStep, clockStep, clockHold_passes hwait]; rfl
  iterate 3 rw [exec_wakes hw rfl]; rfl

/-- Settles O40: Q1 by acceptance, each further step by the list, Q6 by `EXTPEND`. -/
theorem stopUntilInterruptStepByStep : Obligations.StopUntilInterruptStepByStep := by
  intro s h v n c
  refine ⟨fun hs => ?first, ?_⟩
  case first =>
    rw [exec_accept rfl hs rfl, accepted_eq]
    simp only [exec, execPmStopIrq, onPortC_atStep]
    rfl
  simp only [exec, execPmStopIrq, onPortC_atStep]
  exact ⟨rfl, rfl, rfl, rfl, (apply_ite Host.Outcome.next _ _ _).symm⟩

/-- Settles O41: B1 by acceptance, each further step by the one list, B4 by the command. -/
theorem standbyEntryStepByStep : Obligations.StandbyEntryStepByStep := by
  intro ins s h v n c hi
  refine ⟨fun hs hw => ?first, ?_⟩
  case first =>
    rw [exec_accept (standby_port hi) hs hw, accepted_eq, standby_firstStep hi, exec_standby hi]
    rfl
  simp only [exec_standby hi]
  refine ⟨rfl, rfl, fun d hd hs => ?sec, fun p hp => ?pin, rfl, rfl, rfl, rfl⟩
  case sec =>
    subst hd
    simp only [standbyStep, standbyB4, arm_atStep hs]
    rfl
  case pin =>
    subst hp
    rfl

end Sys2Proof.Machine
end

section
/-! PROOFS. The ports and the step (R99 to R102, R70): what a word presented comes to, and everything one step of the
machine can do. -/

namespace Sys2Proof.Machine

/-! ### The opcode and the port of a word -/

theorem portOf_opcode (ins : Instr) : portOf ins.opcode = some ins.port := by
  cases ins <;> rfl

/-- The opcode map gives a word that decodes the port of its command. -/
theorem portOf_of_decode {w : Cmd} {ins : Instr} (h : decode w = .ok ins) : portOf (opField w) = some ins.port := by
  rw [← (fields_of_decode h).1, portOf_opcode]

theorem portOf_of_unknown {w : Cmd} (h : ∀ r ∈ opcodeTable, r.op ≠ opField w) : portOf (opField w) = none := by
  simp only [opcodeTable, List.cons_append, List.nil_append, List.forall_mem_cons, List.not_mem_nil, false_implies,
    implies_true, and_true, ne_eq, ← eq_comm (a := opField w)] at h
  simp [portOf, h]

/-- The opcode map gives a row's opcode the row's port. -/
theorem portOf_row : ∀ r ∈ opcodeTable, portOf r.op = some r.port := by decide

/-- Only `RB_INSERT` is a command of port P. -/
theorem port_eq_P_iff (ins : Instr) : ins.port = .P ↔ ins.opcode = 0x20#8 := by
  cases ins <;> simp [Instr.port, Instr.opcode]

theorem eq_rbInsert_of_port {ins : Instr} (h : ins.port = .P) : ∃ i b, ins = .rbInsert i b := by
  cases ins <;> cases h
  exact ⟨_, _, rfl⟩

/-- A word that a row's opcode names but its mask refuses decodes to nothing. -/
theorem decode_error_of_not_selects {r : OpRow} (hr : r ∈ opcodeTable) {w : Cmd} (hop : r.op = opField w)
    (hs : r.selects w = false) : ∃ e, decode w = .error e := by
  cases hd : decode w with
  | error e => exact ⟨e, rfl⟩
  | ok ins =>
    have ho : ins.opcode = r.op := (fields_of_decode hd).1.trans hop.symm
    have hp : ins.port = r.port := by
      have := portOf_opcode ins
      rw [ho, portOf_row r hr] at this
      exact (Option.some.inj this).symm
    have := (opcodeTable_decodes r hr w).mpr ⟨ins, hd, ho, hp⟩
    rw [hs] at this
    cases this

/-! ### A word presented on port C -/

theorem acceptC_none {w : Cmd} (h : portOf (opField w) = none) (s : State) : acceptC w s = .next (illegalC s) := by
  simp only [acceptC, h]

theorem acceptC_P {w : Cmd} (h : portOf (opField w) = some .P) (s : State) :
    acceptC w s = .refused (.wrongPort (opField w)) := by
  simp only [acceptC, h]

theorem acceptC_error {w : Cmd} (h : portOf (opField w) = some .C) {e : DecodeError} (hd : decode w = .error e)
    (s : State) : acceptC w s = .next (illegalC s) := by
  simp only [acceptC, h, hd]

theorem acceptC_ok {w : Cmd} {ins : Instr} (hd : decode w = .ok ins) (hp : ins.port = .C) (s : State) :
    acceptC w s = exec ins s := by
  simp only [acceptC, portOf_of_decode hd, hp, hd]

/-- Everything a word presented on port C comes to (R99 to R101). -/
theorem acceptC_cases (w : Cmd) (s : State) :
    acceptC w s = .next (illegalC s) ∨ (opField w = 0x20#8 ∧ acceptC w s = .refused (.wrongPort (opField w))) ∨
      ∃ ins, decode w = .ok ins ∧ ins.port = .C ∧ acceptC w s = exec ins s := by
  cases hd : decode w with
  | ok ins =>
    cases hp : ins.port with
    | C => exact .inr (.inr ⟨ins, rfl, hp, acceptC_ok hd hp s⟩)
    | P =>
      have ho : opField w = 0x20#8 := (fields_of_decode hd).1.symm.trans ((port_eq_P_iff ins).mp hp)
      exact .inr (.inl ⟨ho, acceptC_P (by rw [ho]; rfl) s⟩)
  | error e =>
    cases hp : portOf (opField w) with
    | none => exact .inl (acceptC_none hp s)
    | some p =>
      cases p with
      | C => exact .inl (acceptC_error hp hd s)
      | P =>
        have ho : opField w = 0x20#8 := by
          revert hp; generalize opField w = op; revert op; decide
        exact .inr (.inl ⟨ho, acceptC_P hp s⟩)

/-! ### A word presented on port P -/

theorem acceptP_none {w : Cmd} (h : portOf (opField w) = none) (s : State) :
    acceptP w s = .refused (.unknownOnPortP (opField w)) := by
  simp only [acceptP, h]

theorem acceptP_C {w : Cmd} (h : portOf (opField w) = some .C) (s : State) :
    acceptP w s = .refused (.wrongPort (opField w)) := by
  simp only [acceptP, h]

theorem acceptP_error {w : Cmd} (h : portOf (opField w) = some .P) {e : DecodeError} (hd : decode w = .error e)
    (s : State) : acceptP w s = .next (illegalP s) := by
  simp only [acceptP, h, hd]

theorem acceptP_ok {w : Cmd} {i b : Byte} (hd : decode w = .ok (.rbInsert i b)) (s : State) :
    acceptP w s = exec (.rbInsert i b) s := by
  simp only [acceptP, portOf_of_decode hd, Instr.port, hd]

/-- Everything a word presented on port P comes to (R99 to R101). -/
theorem acceptP_cases (w : Cmd) (s : State) :
    (opField w ≠ 0x20#8 ∧ ∃ r, acceptP w s = .refused r) ∨
      ((∀ ins, decode w ≠ .ok ins) ∧ acceptP w s = .next (illegalP s)) ∨
      ∃ i b, decode w = .ok (.rbInsert i b) ∧ acceptP w s = exec (.rbInsert i b) s := by
  cases hp : portOf (opField w) with
  | none => exact .inl ⟨by rintro h; simp [h, portOf] at hp, _, acceptP_none hp s⟩
  | some p =>
    cases p with
    | C => exact .inl ⟨by rintro h; simp [h, portOf] at hp, _, acceptP_C hp s⟩
    | P =>
      cases hd : decode w with
      | error e => exact .inr (.inl ⟨nofun, acceptP_error hp hd s⟩)
      | ok ins =>
        have hi : ins.port = .P := by
          rw [portOf_of_decode hd] at hp
          exact Option.some.inj hp
        obtain ⟨i, b, rfl⟩ := eq_rbInsert_of_port hi
        exact .inr (.inr ⟨i, b, rfl, acceptP_ok hd s⟩)

/-- `RB_INSERT` with `IntCtx` on an existing instance (R131). -/
theorem exec_rbInsert {s : State} {i : Byte} (hi : intCtx s.pwr = true) (hr : i.toNat < s.cfg.nRb) (b : Byte) :
    exec (.rbInsert i b) s = .next (respondP .ok 0#32 (insertByte i.toNat b s)) := by
  simp [exec, execRbInsert, hi, ringLegal, hr]

/-- `RB_INSERT` with `IntCtx` on an instance that does not exist (R100 (c), R102). -/
theorem exec_rbInsert_illegal {s : State} {i : Byte} (hi : intCtx s.pwr = true) (hr : ¬ i.toNat < s.cfg.nRb)
    (b : Byte) : exec (.rbInsert i b) s = .next (illegalP s) := by
  simp [exec, execRbInsert, hi, ringLegal, hr]

/-! ### The step -/

/-- A step of a state without a recorded fault is the step of the agent that moves next. -/
theorem step_eq {s : State} (h : s.faulted = none) : step s = recordFault s (agentTurn (nextMove s) (dropMove s)) := by
  simp only [step, machineStep, h]

/-- The same, the agent that moves next known. -/
theorem step_of_move {s : State} (h : s.faulted = none) {m : Move} (hm : nextMove s = m) :
    step s = recordFault s (agentTurn m (dropMove s)) := by
  rw [step_eq h, hm]

/-- Port C idle: the word presented is accepted. -/
theorem step_of_wordC {s : State} {w : Cmd} {rest : List Cmd} (h : s.faulted = none) (hm : nextMove s = .portC)
    (hs : s.seq = .idle) (hc : s.cmdC = w :: rest) :
    step s = recordFault s (acceptC w { dropMove s with cmdC := rest }) := by
  rw [step_of_move h hm]
  simp only [agentTurn, portCTurn, dropMove_seq, hs, dropMove_cmdC, hc]

/-- Port P with `IntCtx`: the word presented is accepted. -/
theorem step_of_wordP {s : State} {w : Cmd} {rest : List Cmd} (h : s.faulted = none) (hm : nextMove s = .portP)
    (hi : intCtx s.pwr = true) (hc : s.cmdP = w :: rest) :
    step s = recordFault s (acceptP w { dropMove s with cmdP := rest }) := by
  rw [step_of_move h hm]
  simp only [agentTurn, portPTurn, dropMove_cmdP, hc, dropMove_pwr, hi, if_true]

/-- Settles O5: the checks in the order of R101, each by the case of the word that it names. -/
theorem portsCheckAWordInOrder : Obligations.PortsCheckAWordInOrder := by
  constructor
  · intro s w rest hf hm hs hc
    rw [step_of_wordC hf hm hs hc]
    refine ⟨fun h => ?_, fun h => ?_, fun ⟨r, hr, hop, hp, hsel⟩ => ?_, fun ins hd hp hw => ?_, fun ins hd hp _ => ?_⟩
    · rw [acceptC_none (portOf_of_unknown h)]; rfl
    · rw [acceptC_P (by rw [h]; rfl), h]; rfl
    · obtain ⟨e, hd⟩ := decode_error_of_not_selects hr hop hsel
      rw [acceptC_error (by rw [← hop, portOf_row r hr, hp]) hd]; rfl
    · rw [acceptC_ok hd hp, exec_illegal (s := { dropMove s with cmdC := rest }) hp hs hw]; rfl
    · rw [acceptC_ok hd hp]
  · intro s w rest hf hm hi hc
    rw [step_of_wordP hf hm hi hc]
    refine ⟨fun h => ?_, fun ⟨r, hr, hop, hp⟩ => ?_, fun h hno => ?_, fun i b hd hb => ?_, fun i b hd _ => ?_⟩
    · rw [acceptP_none (portOf_of_unknown h)]; rfl
    · rw [acceptP_C (by rw [← hop, portOf_row r hr, hp])]; rfl
    · obtain ⟨hne, -⟩ | ⟨-, he⟩ | ⟨i, b, hd, -⟩ := acceptP_cases w { dropMove s with cmdP := rest }
      · exact absurd h hne
      · rw [he]; rfl
      · exact absurd hd (hno i b)
    · rw [acceptP_ok hd, exec_rbInsert_illegal (s := { dropMove s with cmdP := rest }) hi (Nat.not_lt.mpr hb)]
      rfl
    · rw [acceptP_ok hd]

/-- The word that `withFetchWord` presents is the command's own. -/
theorem withFetchWord_encode (s : State) (ins : Instr) :
    s.withFetchWord 48 (encode ins).toNat = presentWord (encode ins) s := by
  have h : BitVec.ofNat 48 ((encode ins).toNat % 2 ^ 48) = encode ins := by
    rw [Nat.mod_eq_of_lt (encode ins).isLt, BitVec.ofNat_toNat, BitVec.setWidth_eq]
  rw [State.withFetchWord, h]

/-- Settles O6: the word presented decodes to the command placed, and is accepted on the port where it is legal. -/
theorem stepRunsTheCommandPlaced : Obligations.StepRunsTheCommandPlaced := by
  refine ⟨fun s f hf hm hs => ?flight, fun s ins hf hp => ?portC, fun s ins hf hp => ?portP⟩
  case flight =>
    rw [step_of_move hf hm]
    simp only [agentTurn, portCTurn, dropMove_seq, hs]
  all_goals
    have hd := decodeOfEncodeIsTheCommand ins
    have ho := portOf_of_decode hd
    rw [hp] at ho
    simp only [withFetchWord_encode, presentWord, ho]
  case portC =>
    let u : State := { s with cmdC := encode ins :: s.cmdC, sched := .portC :: s.sched, seq := .idle }
    rw [step_of_wordC (s := u) hf rfl rfl rfl, acceptC_ok hd hp]
    rfl
  case portP =>
    obtain ⟨i, b, rfl⟩ := eq_rbInsert_of_port hp
    let u : State := { s with cmdP := encode (.rbInsert i b) :: s.cmdP, sched := .portP :: s.sched }
    cases hi : intCtx s.pwr with
    | true =>
      rw [step_of_wordP (s := u) hf rfl hi rfl, acceptP_ok hd]
      rfl
    | false =>
      rw [step_of_move (s := u) hf rfl]
      simp only [agentTurn, portPTurn, dropMove_cmdP, dropMove_pwr, u, hi]
      rfl

/-- Settles O7: the agent named is the one whose turn the step takes. -/
theorem stepRunsTheScheduledEvent : Obligations.StepRunsTheScheduledEvent := by
  intro s hf
  refine ⟨fun h => ?_, fun h => ?_, fun h => ?_, fun h => ?_, fun p h => ?_, fun h => ?_, fun h => ?_, fun h => ?_,
    fun h hs hc => ?_, fun h hc => ?_⟩ <;> rw [step_of_move hf h]
  case refine_9 =>
    simp only [agentTurn, portCTurn, dropMove_seq, hs, dropMove_cmdC, hc]
    rfl
  case refine_10 =>
    simp only [agentTurn, portPTurn, dropMove_cmdP, hc]
    rfl
  all_goals rfl

/-- No agent's own step writes `FAULTED` (R36). -/
theorem agentTurn_faulted {m : Move} {s t : State} (h : agentTurn m s = .next t) : t.faulted = s.faulted := by
  cases m with
  | portC => exact congrArg Unwritten.faulted (portCTurn_unwritten h)
  | portP => exact congrArg Unwritten.faulted (portPTurn_unwritten h)
  | evTick => cases h; obtain ⟨-, -, he⟩ | he := evTick_cases s <;> rw [he]
  | evRtcMs => cases h; exact congrArg Unwritten.faulted (evRtcMs_unwritten s)
  | evRegRdy => cases h; exact congrArg Unwritten.faulted (evRegRdy_unwritten s)
  | evClkRdy => cases h; exact congrArg Unwritten.faulted (evClkRdy_unwritten s)
  | evWkup p => cases h; exact congrArg Unwritten.faulted (evWkup_unwritten p s)
  | evExtIrq => cases h; exact congrArg Unwritten.faulted (evExtIrq_unwritten s)
  | powerOnReset => cases h; rfl
  | standbyExitReset => cases h; unfold evStandbyExit; split <;> rfl

/-- Settles O8: a faulted state answers its fault, and only the record of a fault writes `FAULTED`. -/
theorem faultedIsNeverCleared : Obligations.FaultedIsNeverCleared := by
  constructor
  · intro s r h
    simp only [step, machineStep, h]
  · intro s t h hne
    obtain ⟨-, ha | ⟨r, ha, rfl⟩⟩ := machineStep_next h
    · exact absurd (agentTurn_faulted ha) hne
    · exact ⟨r, ha, rfl⟩

/-! ### Everything one step can do -/

/-- What a step of the machine can come to, by the agent that moved. The commands stand as `exec` of the command in
flight, of the command just accepted, or of the `RB_INSERT` served. -/
inductive StepTo (s : State) : State → Prop
  /-- The agent that moved faulted (R36). -/
  | faults (r : Fault) (h : agentTurn (nextMove s) (dropMove s) = .fault r) : StepTo s { s with faulted := some r }
  /-- A port with nothing to do, or a port-P word held (R34). -/
  | nothing (h : nextMove s = .portC ∧ s.seq = .idle ∧ s.cmdC = [] ∨
      nextMove s = .portP ∧ (s.cmdP = [] ∨ intCtx s.pwr = false)) : StepTo s (dropMove s)
  /-- A reserved encoding on port C (R100). -/
  | illegalC (w : Cmd) (rest : List Cmd) (hm : nextMove s = .portC) (hs : s.seq = .idle) (hc : s.cmdC = w :: rest) :
      StepTo s (illegalC { dropMove s with cmdC := rest })
  /-- A command accepted on port C runs its first step. -/
  | accepts (ins : Instr) (w : Cmd) (rest : List Cmd) (t : State) (hm : nextMove s = .portC) (hs : s.seq = .idle)
      (hc : s.cmdC = w :: rest) (hp : ins.port = .C) (hw : ins.wellFormed s.cfg = true) (ha : acceptedC s = some ins)
      (h : exec ins (accepted ins { dropMove s with cmdC := rest }) = .next t) : StepTo s t
  /-- The command in flight runs its next step. -/
  | flight (f : Flight) (t : State) (hm : nextMove s = .portC) (hs : s.seq = .busy f)
      (h : exec f.ins (dropMove s) = .next t) : StepTo s t
  /-- A reserved encoding on port P (R102). -/
  | illegalP (w : Cmd) (rest : List Cmd) (hm : nextMove s = .portP) (hi : intCtx s.pwr = true)
      (hc : s.cmdP = w :: rest) (hw : ∀ i b, decode w = .ok (.rbInsert i b) → ¬ i.toNat < s.cfg.nRb) :
      StepTo s (illegalP { dropMove s with cmdP := rest })
  /-- Port P serves an `RB_INSERT` (R131). -/
  | inserts (i b : Byte) (w : Cmd) (rest : List Cmd) (hm : nextMove s = .portP) (hi : intCtx s.pwr = true)
      (hc : s.cmdP = w :: rest) (hd : decode w = .ok (.rbInsert i b)) (hr : i.toNat < s.cfg.nRb)
      (ha : servedP s = some (.rbInsert i b)) :
      StepTo s (respondP .ok 0#32 (insertByte i.toNat b { dropMove s with cmdP := rest }))
  | evTick (hm : nextMove s = .evTick) : StepTo s (evTick (dropMove s))
  | evRtcMs (hm : nextMove s = .evRtcMs) : StepTo s (evRtcMs (dropMove s))
  | evRegRdy (hm : nextMove s = .evRegRdy) : StepTo s (evRegRdy (dropMove s))
  | evClkRdy (hm : nextMove s = .evClkRdy) : StepTo s (evClkRdy (dropMove s))
  | evWkup (p : Fin 3) (hm : nextMove s = .evWkup p) : StepTo s (evWkup p (dropMove s))
  | evExtIrq (hm : nextMove s = .evExtIrq) : StepTo s (evExtIrq (dropMove s))
  | powerOnReset (hm : nextMove s = .powerOnReset) : StepTo s (powerOnReset (dropMove s))
  /-- StandbyExitReset, enabled (R174). -/
  | standbyExit (hm : nextMove s = .standbyExitReset) (he : standbyExitEnabled s = true) :
      StepTo s (standbyExit (dropMove s))
  /-- StandbyExitReset, not enabled. -/
  | noExit (hm : nextMove s = .standbyExitReset) (he : standbyExitEnabled s = false) : StepTo s (dropMove s)

theorem acceptedC_eq {s : State} {w : Cmd} {rest : List Cmd} {ins : Instr} (hm : nextMove s = .portC)
    (hs : s.seq = .idle) (hc : s.cmdC = w :: rest) (hd : decode w = .ok ins) (hp : ins.port = .C)
    (hw : ins.wellFormed s.cfg = true) : acceptedC s = some ins := by
  simp only [acceptedC, hm, hs, hc, hd, hp, hw, and_self, if_true]

theorem servedP_eq {s : State} {w : Cmd} {rest : List Cmd} {i b : Byte} (hm : nextMove s = .portP)
    (hi : intCtx s.pwr = true) (hc : s.cmdP = w :: rest) (hd : decode w = .ok (.rbInsert i b))
    (hr : i.toNat < s.cfg.nRb) : servedP s = some (.rbInsert i b) := by
  simp [servedP, hm, hc, hd, hi, Instr.port, Instr.wellFormed, hr]

/-- Every step is one of these. -/
theorem stepTo_of_step {s t : State} (h : step s = .next t) : StepTo s t := by
  obtain ⟨-, ha | ⟨r, ha, rfl⟩⟩ := machineStep_next h
  case inr => exact .faults r ha
  generalize hm : nextMove s = m at ha
  cases m with
  | evTick => cases ha; exact .evTick hm
  | evRtcMs => cases ha; exact .evRtcMs hm
  | evRegRdy => cases ha; exact .evRegRdy hm
  | evClkRdy => cases ha; exact .evClkRdy hm
  | evWkup p => cases ha; exact .evWkup p hm
  | evExtIrq => cases ha; exact .evExtIrq hm
  | powerOnReset => cases ha; exact .powerOnReset hm
  | standbyExitReset =>
    cases ha
    cases he : standbyExitEnabled s with
    | true => rw [evStandbyExit, if_pos (show standbyExitEnabled (dropMove s) = true from he)]; exact .standbyExit hm he
    | false =>
      rw [evStandbyExit, if_neg (show ¬ standbyExitEnabled (dropMove s) = true from ne_true_of_eq_false he)]
      exact .noExit hm he
  | portC =>
    rw [agentTurn] at ha
    obtain ⟨f, hs, he⟩ | ⟨hs, hc, he⟩ | ⟨w, rest, hs, hc, he⟩ := portCTurn_cases (dropMove s) <;> rw [he] at ha
    · exact .flight f t hm hs ha
    · cases ha; exact .nothing (.inl ⟨hm, hs, hc⟩)
    · obtain hi | ⟨-, hr⟩ | ⟨ins, hd, hp, hx⟩ := acceptC_cases w { dropMove s with cmdC := rest }
      · rw [hi] at ha; cases ha; exact .illegalC w rest hm hs hc
      · rw [hr] at ha; cases ha
      · rw [hx] at ha
        cases hw : ins.wellFormed s.cfg with
        | true =>
          rw [exec_accept (s := { dropMove s with cmdC := rest }) hp hs hw] at ha
          exact .accepts ins w rest t hm hs hc hp hw (acceptedC_eq hm hs hc hd hp hw) ha
        | false =>
          rw [exec_illegal (s := { dropMove s with cmdC := rest }) hp hs hw] at ha
          cases ha
          exact .illegalC w rest hm hs hc
  | portP =>
    rw [agentTurn] at ha
    obtain ⟨hn, he⟩ | ⟨w, rest, hc, hi, he⟩ := portPTurn_cases (dropMove s) <;> rw [he] at ha
    · cases ha; exact .nothing (.inr ⟨hm, hn⟩)
    · obtain ⟨-, r, hr⟩ | ⟨hno, hx⟩ | ⟨i, b, hd, hx⟩ := acceptP_cases w { dropMove s with cmdP := rest }
      · rw [hr] at ha; cases ha
      · rw [hx] at ha; cases ha; exact .illegalP w rest hm hi hc fun i b hd => absurd hd (hno _)
      · rw [hx] at ha
        by_cases hr : i.toNat < s.cfg.nRb
        · rw [exec_rbInsert (s := { dropMove s with cmdP := rest }) hi hr] at ha
          cases ha
          exact .inserts i b w rest hm hi hc hd hr (servedP_eq hm hi hc hd hr)
        · rw [exec_rbInsert_illegal (s := { dropMove s with cmdP := rest }) hi hr] at ha
          cases ha
          refine .illegalP w rest hm hi hc fun i' b' hd' => ?_
          cases hd.symm.trans hd'
          exact hr

end Sys2Proof.Machine
end

section
/-! PROOFS. Tick Counter, RTC Wake Engine, status registers and reset: what each does by itself. -/

namespace Sys2Proof.Machine

/-! ### Tick Counter (R121, R122) -/

/-- EV_TICK enabled (R121). -/
theorem evTick_of_enabled {s : State} (hi : intCtx s.pwr = true) (hk : s.pwr.tickie = true) :
    evTick s = { s with tick := s.tick + 1#32 } := by
  simp [evTick, hi, hk]

/-- EV_TICK not enabled (R121). -/
theorem evTick_of_not_enabled {s : State} (h : intCtx s.pwr = false ∨ s.pwr.tickie = false) : evTick s = s := by
  rcases h with h | h <;> simp [evTick, h]

/-- Settles O10: the increment in numbers, the enabling condition as R121 writes it. -/
theorem tickEventCountsOne : Obligations.TickEventCountsOne := by
  intro s
  have hc : (intCtx s.pwr && s.pwr.tickie) = true ↔
      s.pwr.gie = true ∧ s.pwr.tickie = true ∧ s.pwr.pstate = .active := by
    rw [Bool.and_eq_true, intCtx_eq_true_iff]
    tauto
  have ht : s.tick + 1#32 = BitVec.ofNat 32 ((s.tick.toNat + 1) % 2 ^ 32) := by
    rw [BitVec.add_def]
    exact (BitVec.eq_of_toNat_eq (by simp)).symm
  rw [← ht]
  exact if_congr hc rfl rfl

/-- `k` enabled EV_TICK add `k`, and change nothing else. -/
theorem evTick_iterate {s : State} (hi : intCtx s.pwr = true) (hk : s.pwr.tickie = true) (k : Nat) :
    evTick^[k] s = { s with tick := s.tick + BitVec.ofNat 32 k } := by
  induction k with
  | zero => simp
  | succ k ih =>
    rw [Function.iterate_succ_apply', ih, evTick_of_enabled (s := { s with tick := s.tick + BitVec.ofNat 32 k }) hi hk,
      BitVec.ofNat_add, ← BitVec.add_assoc]

/-- Settles O12: by `evTick_iterate`, the difference is the count as a 32-bit number. -/
theorem tickDifferenceCountsTheInterrupts : Obligations.TickDifferenceCountsTheInterrupts := by
  intro s k hi hk
  rw [evTick_iterate hi hk k]
  refine ⟨?_, rfl⟩
  have h : s.tick + BitVec.ofNat 32 k - s.tick = BitVec.ofNat 32 k := by
    rw [BitVec.add_comm, BitVec.add_sub_cancel]
  rw [h, BitVec.toNat_ofNat]

/-! ### RTC Wake Engine (R214, R215) -/

/-- When the RTC source oscillates (R214). -/
theorem rtcRunning_iff (s : State) :
    rtcRunning s = true ↔
      (s.rtc.src = .internal ∧ s.cfg.rtcSrc1Present = true) ∨
        (s.rtc.src = .external ∧ s.cfg.rtcSrc2Present = true) := by
  cases h : s.rtc.src <;> simp [rtcRunning, h]

/-- One millisecond, the four fields it writes (R214). -/
theorem rtcTick_eq (r : Rtc) :
    rtcTick r = { r with
      cnt := r.cnt + 1#64
      alrF := r.alrF || (r.alrEn && decide (r.cnt + 1#64 = r.alrTgt))
      wutF := r.wutF || (r.wutEn && decide (r.cnt + 1#64 = r.wutNext))
      wutNext := if r.wutEn = true ∧ r.cnt + 1#64 = r.wutNext then
        r.cnt + 1#64 + r.wutPeriod.setWidth 64 else r.wutNext } := by
  rw [← rtcTick_alrF, ← rtcTick_wutF, ← rtcTick_wutNext, ← rtcTick_cnt]
  simp only [rtcTick, timerMatch, alarmMatch]
  split <;> split <;> rfl

theorem evRtcMs_of_running {s : State} (h : rtcRunning s = true) : evRtcMs s = { s with rtc := rtcTick s.rtc } :=
  if_pos h

theorem evRtcMs_of_stopped {s : State} (h : ¬ rtcRunning s = true) : evRtcMs s = s := if_neg h

/-- Settles O30: the enabling condition, then `rtcTick_eq`. -/
theorem rtcMillisecond : Obligations.RtcMillisecond := by
  intro s
  refine ⟨rtcRunning_iff s, fun h => ?_, fun h => evRtcMs_of_stopped fun hr => h ((rtcRunning_iff s).mp hr)⟩
  rw [evRtcMs_of_running ((rtcRunning_iff s).mpr h), rtcTick_eq]

/-- `n` EV_RTCMS are `n` milliseconds of the RTC domain while the source oscillates. -/
theorem evRtcMs_iterate {s : State} (h : rtcRunning s = true) (n : Nat) :
    evRtcMs^[n] s = { s with rtc := rtcTick^[n] s.rtc } := by
  induction n generalizing s with
  | zero => rfl
  | succ n ih =>
    have hr : rtcRunning { s with rtc := rtcTick s.rtc } = true := by
      simpa [rtcRunning_iff] using (rtcRunning_iff s).mp h
    rw [Function.iterate_succ_apply, evRtcMs_of_running h, ih hr, Function.iterate_succ_apply]

theorem rtcTick_iterate_cnt (r : Rtc) (n : Nat) : (rtcTick^[n] r).cnt = r.cnt + BitVec.ofNat 64 n := by
  induction n with
  | zero => simp
  | succ n ih => rw [Function.iterate_succ_apply', rtcTick_cnt, ih, BitVec.ofNat_add, BitVec.add_assoc]

/-- Between 0 and `D` the count reaches `c + D` at the `D`-th millisecond alone, across the wrap of the counter. -/
theorem count_eq_target_iff {c : Dword} {D n : Nat} (hD : D < 2 ^ 64) (hn : n < D) :
    c + BitVec.ofNat 64 n + 1#64 = c + BitVec.ofNat 64 D ↔ n + 1 = D := by
  rw [BitVec.add_assoc, BitVec.add_right_inj, show BitVec.ofNat 64 n + 1#64 = BitVec.ofNat 64 (n + 1) from
    (BitVec.ofNat_add n 1).symm]
  constructor
  · intro h
    have := congrArg BitVec.toNat h
    rwa [BitVec.toNat_ofNat, BitVec.toNat_ofNat, Nat.mod_eq_of_lt (by omega), Nat.mod_eq_of_lt hD] at this
  · rintro rfl; rfl

/-- The alarm flag of an alarm armed `D` milliseconds ahead. -/
theorem rtcTick_iterate_alarm {r : Rtc} {D : Nat} (hD : D < 2 ^ 64) (h0 : 0 < D) (hen : r.alrEn = true)
    (htgt : r.alrTgt = r.cnt + BitVec.ofNat 64 D) (hf : r.alrF = false) (n : Nat) :
    (rtcTick^[n] r).alrEn = true ∧ (rtcTick^[n] r).alrTgt = r.alrTgt ∧
      (rtcTick^[n] r).alrF = decide (D ≤ n) := by
  induction n with
  | zero => exact ⟨hen, rfl, by simp [hf, Nat.pos_iff_ne_zero.mp h0]⟩
  | succ n ih =>
    obtain ⟨hen', htgt', hf'⟩ := ih
    rw [Function.iterate_succ_apply', rtcTick_alrEn, rtcTick_alrTgt, rtcTick_alrF, hen', htgt', hf',
      rtcTick_iterate_cnt, htgt]
    refine ⟨rfl, rfl, ?_⟩
    by_cases hn : D ≤ n
    · simp [hn, Nat.le_succ_of_le hn]
    · have he := count_eq_target_iff (c := r.cnt) hD (Nat.lt_of_not_le hn)
      have hle : n + 1 = D ↔ D ≤ n + 1 := by omega
      simp only [hn, he, hle, decide_false, Bool.false_or, Bool.true_and]

/-- The flag of a wake-up timer armed with period `D`: its next match moves only once it has matched. -/
theorem rtcTick_iterate_timer {r : Rtc} {D : Nat} (hD : D < 2 ^ 64) (h0 : 0 < D) (hen : r.wutEn = true)
    (hnext : r.wutNext = r.cnt + BitVec.ofNat 64 D) (hf : r.wutF = false) (n : Nat) :
    (rtcTick^[n] r).wutEn = true ∧ (n < D → (rtcTick^[n] r).wutNext = r.wutNext) ∧
      (rtcTick^[n] r).wutF = decide (D ≤ n) := by
  induction n with
  | zero => exact ⟨hen, fun _ => rfl, by simp [hf, Nat.pos_iff_ne_zero.mp h0]⟩
  | succ n ih =>
    obtain ⟨hen', hnext', hf'⟩ := ih
    rw [Function.iterate_succ_apply', rtcTick_wutEn, rtcTick_wutNext, rtcTick_wutF, hen', hf', rtcTick_iterate_cnt]
    refine ⟨rfl, fun hn => ?next, ?flag⟩
    case next =>
      have he := count_eq_target_iff (c := r.cnt) hD (Nat.lt_of_succ_lt hn)
      rw [hnext' (Nat.lt_of_succ_lt hn), hnext, if_neg fun h => absurd (he.mp h.2) (by omega)]
    case flag =>
      by_cases hn : D ≤ n
      · simp [hn, Nat.le_succ_of_le hn]
      · have he := count_eq_target_iff (c := r.cnt) hD (Nat.lt_of_not_le hn)
        have hle : n + 1 = D ↔ D ≤ n + 1 := by omega
        rw [hnext' (Nat.lt_of_not_le hn), hnext]
        simp only [hn, he, hle, decide_false, Bool.false_or, Bool.true_and]

/-- A duration that is not 0 is a positive number. -/
theorem toNat_pos_of_ne_zero {d : Word} (hd : d ≠ 0#32) : 0 < d.toNat := by
  rcases Nat.eq_zero_or_pos d.toNat with h | h
  · exact absurd (BitVec.eq_of_toNat_eq h) hd
  · exact h

theorem ofNat_add_target (c : Dword) (D : Nat) : BitVec.ofNat 64 (c.toNat + D) = c + BitVec.ofNat 64 D := by
  rw [BitVec.ofNat_add, BitVec.ofNat_toNat, BitVec.setWidth_eq]

/-- The flag of an alarm armed for `d` seconds after `n` milliseconds. -/
theorem alarm_flag_after {d : Word} (hd : d ≠ 0#32) (r : Rtc) (n : Nat) :
    (rtcTick^[n] (armRtc .seconds d r)).alrF = decide (1000 * d.toNat ≤ n) := by
  have h0 := toNat_pos_of_ne_zero hd
  have hlt : d.toNat < 2 ^ 32 := d.isLt
  rw [armRtc_seconds_of_ne_zero hd]
  refine (rtcTick_iterate_alarm (r := armAlarm (millisOfSeconds d) r) (by omega) (by omega) rfl ?_ rfl n).2.2
  rw [← ofNat_add_target]
  exact add_millisOfSeconds r.cnt d

/-- The flag of a wake-up timer armed for `d` milliseconds after `n` milliseconds. -/
theorem timer_flag_after {d : Word} (hd : d ≠ 0#32) (r : Rtc) (n : Nat) :
    (rtcTick^[n] (armRtc .milliseconds d r)).wutF = decide (d.toNat ≤ n) := by
  have h0 := toNat_pos_of_ne_zero hd
  have hlt : d.toNat < 2 ^ 32 := d.isLt
  rw [armRtc_milliseconds_of_ne_zero hd]
  refine (rtcTick_iterate_timer (r := armTimer d r) (by omega) (by omega) rfl ?_ rfl n).2.2
  rw [← ofNat_add_target]
  exact add_setWidth_word r.cnt d

/-- Settles O31: while the source oscillates, `n` events are `n` milliseconds of the armed RTC. -/
theorem armedFlagIsSetByTheLastMillisecond : Obligations.ArmedFlagIsSetByTheLastMillisecond := by
  intro s d n h hd
  have hr : ∀ u, rtcRunning { s with rtc := armRtc u d s.rtc } = true := fun u => by
    simpa [rtcRunning_iff] using (rtcRunning_iff s).mp h
  rw [evRtcMs_iterate (hr .seconds), evRtcMs_iterate (hr .milliseconds)]
  exact ⟨alarm_flag_after hd s.rtc n, timer_flag_after hd s.rtc n⟩

/-- What a millisecond keeps of the RTC domain, EV_RTCMS keeps. -/
theorem evRtcMs_iterate_keeps {P : Rtc → Prop} (hP : ∀ r, P r → P (rtcTick r)) (n : Nat) {s : State} (hs : P s.rtc) :
    P (evRtcMs^[n] s).rtc := by
  induction n with
  | zero => exact hs
  | succ n ih =>
    rw [Function.iterate_succ_apply', evRtcMs]
    split
    · exact hP _ ih
    · exact ih

/-- The alarm comparator is off: its three bits are 0. -/
def alarmOff (r : Rtc) : Prop := r.alrEn = false ∧ r.alrIe = false ∧ r.alrF = false

/-- The wake-up timer is off: its three bits are 0. -/
def timerOff (r : Rtc) : Prop := r.wutEn = false ∧ r.wutIe = false ∧ r.wutF = false

theorem alarmOff_rtcTick {r : Rtc} (h : alarmOff r) : alarmOff (rtcTick r) := by
  obtain ⟨he, hi, hf⟩ := h
  exact ⟨(rtcTick_alrEn r).trans he, (rtcTick_alrIe r).trans hi, by rw [rtcTick_alrF, he, hf]; rfl⟩

theorem timerOff_rtcTick {r : Rtc} (h : timerOff r) : timerOff (rtcTick r) := by
  obtain ⟨he, hi, hf⟩ := h
  exact ⟨(rtcTick_wutEn r).trans he, (rtcTick_wutIe r).trans hi, by rw [rtcTick_wutF, he, hf]; rfl⟩

/-- Settles O32: a comparator that is off stays off, and duration 0 leaves it off. -/
theorem disarmedComparatorStaysQuiet : Obligations.DisarmedComparatorStaysQuiet := by
  intro s n
  exact ⟨evRtcMs_iterate_keeps (P := alarmOff) (fun _ => alarmOff_rtcTick) n ⟨rfl, rfl, rfl⟩,
    evRtcMs_iterate_keeps (P := timerOff) (fun _ => timerOff_rtcTick) n ⟨rfl, rfl, rfl⟩⟩

/-! ### Reset (R311, R312) -/

/-- Settles O54: the start of a run, field by field. -/
theorem powerOnValues : Obligations.PowerOnValues := by
  intro p d
  exact ⟨rfl, rfl, rfl, rfl, rfl, rfl, rfl, rfl, rfl, show clksr Clk.reset = 0x00FDFDFF#32 by decide⟩

/-- Settles O55: the draw is the free values of the current draw count. -/
theorem powerOnResetRestarts : Obligations.PowerOnResetRestarts := by
  intro s hf hm
  refine ⟨freeDraw s.draws, ?_⟩
  rw [step_of_move hf hm]
  simp only [agentTurn, recordFault, powerOnReset, resetBlock, dropMove, hf]
  rfl

/-- Settles O56: the exit's condition as R174 writes it, and the free values of the current draw count. -/
theorem standbyExitValues : Obligations.StandbyExitValues := by
  intro s
  refine ⟨by simp [standbyExitEnabled], fun h => if_neg (ne_true_of_eq_false h), fun h => ?_⟩
  refine ⟨freeDraw s.draws, Config.freeWuf s.draws, rtcAfterStandby s.draws s.rtc, ?_, rfl, rfl, rfl, fun hn => ?_⟩
  · rw [evStandbyExit, if_pos h]; rfl
  · simp [comparatorBits, rtcAfterStandby, hn]

/-! ### Status registers (R41 to R43, R102) -/

@[simp] theorem getLsbD_bit (b : Bool) (i : Nat) : (bit b).getLsbD i = (decide (i = 0) && b) := by
  rw [bit, BitVec.getLsbD_ofBool]

/-! The registers with the widths of their fields written as sums, as the lemmas on `++` read them. -/

/-- The fields of `PMSR` (R41). -/
abbrev pmsrFields (p : Pwr) :=
  0#13 ++ bit p.extpend ++ p.wupen ++ bit p.pvden ++ bit p.tsen ++ bit p.vrefen ++ bit p.flashpd ++ bit p.prefetch ++
    bit p.wuf ++ bit p.pdds ++ bit p.deep ++ bit p.reglpf ++ bit p.lpreg ++ bit p.rtcie ++ bit p.tickie ++ bit p.gie ++
    p.pstate.code

theorem getLsbD_pmsr (p : Pwr) (i : Nat) : (pmsr p).getLsbD i = (pmsrFields p).getLsbD i := rfl

theorem extractLsb'_pmsr (p : Pwr) (i n : Nat) : (pmsr p).extractLsb' i n = (pmsrFields p).extractLsb' i n := rfl

/-- The fields of `CLKSR` (R42). -/
abbrev clksrFields (c : Clk) := 0#6 ++ c.wait.code ++ c.tickCfg ++ c.current ++ c.active

theorem extractLsb'_clksr (c : Clk) (i n : Nat) : (clksr c).extractLsb' i n = (clksrFields c).extractLsb' i n := rfl

/-- The fields of `RTCSR` (R43). -/
abbrev rtcsrFields (r : Rtc) :=
  0#24 ++ bit r.wutF ++ bit r.wutIe ++ bit r.wutEn ++ bit r.alrF ++ bit r.alrIe ++ bit r.alrEn ++ r.src.code

theorem getLsbD_rtcsr (r : Rtc) (i : Nat) : (rtcsr r).getLsbD i = (rtcsrFields r).getLsbD i := rfl

theorem extractLsb'_rtcsr (r : Rtc) (i n : Nat) : (rtcsr r).extractLsb' i n = (rtcsrFields r).extractLsb' i n := rfl

theorem extractLsb'_word (r : Rsp) (i n : Nat) : r.word.extractLsb' i n = (r.st.code ++ r.val).extractLsb' i n := rfl

/-- The bits and fields of `PMSR`: a single bit by its place in the sum of widths, a field by the widths below it. -/
theorem pmsr_fields (p : Pwr) :
    (pmsr p).extractLsb' 0 2 = p.pstate.code ∧ (pmsr p).getLsbD 2 = p.gie ∧ (pmsr p).getLsbD 3 = p.tickie ∧
    (pmsr p).getLsbD 4 = p.rtcie ∧ (pmsr p).getLsbD 5 = p.lpreg ∧ (pmsr p).getLsbD 6 = p.reglpf ∧
    (pmsr p).getLsbD 7 = p.deep ∧ (pmsr p).getLsbD 8 = p.pdds ∧ (pmsr p).getLsbD 9 = p.wuf ∧
    (pmsr p).getLsbD 10 = p.prefetch ∧ (pmsr p).getLsbD 11 = p.flashpd ∧ (pmsr p).getLsbD 12 = p.vrefen ∧
    (pmsr p).getLsbD 13 = p.tsen ∧ (pmsr p).getLsbD 14 = p.pvden ∧ (pmsr p).extractLsb' 15 3 = p.wupen ∧
    (pmsr p).getLsbD 18 = p.extpend ∧ (pmsr p).extractLsb' 19 13 = 0#13 := by
  simp only [getLsbD_pmsr, BitVec.getLsbD_append, getLsbD_bit]
  refine ⟨?pstate, rfl, rfl, rfl, rfl, rfl, rfl, rfl, rfl, rfl, rfl, rfl, rfl, rfl, ?wupen, rfl, ?reserved⟩
  all_goals
    rw [extractLsb'_pmsr]
    simp (disch := decide) only [BitVec.extractLsb'_append_eq_of_add_le, BitVec.extractLsb'_append_eq_of_le,
      BitVec.extractLsb'_eq_self, Nat.reduceSub]

/-- Settles O52: the codes by evaluation, each bit and field of a register by its place among the widths. -/
theorem statusRegisterBits : Obligations.StatusRegisterBits := by
  refine ⟨⟨rfl, rfl, rfl, rfl⟩, ⟨rfl, rfl, rfl, rfl⟩, ⟨rfl, rfl, rfl⟩, ⟨rfl, rfl, fun r => ?word⟩, pmsr_fields,
    fun c => ?clksr, fun r => ?rtcsr⟩
  case rtcsr =>
    simp only [getLsbD_rtcsr, BitVec.getLsbD_append, getLsbD_bit]
    refine ⟨?src, rfl, rfl, rfl, rfl, rfl, rfl, ?reserved⟩ <;> rw [extractLsb'_rtcsr]
    all_goals
      simp (disch := decide) only [BitVec.extractLsb'_append_eq_of_add_le, BitVec.extractLsb'_append_eq_of_le,
        BitVec.extractLsb'_eq_self, Nat.reduceSub]
  case clksr =>
    simp (disch := decide) only [extractLsb'_clksr, BitVec.extractLsb'_append_eq_of_add_le,
      BitVec.extractLsb'_append_eq_of_le, BitVec.extractLsb'_eq_self, Nat.reduceSub, and_self]
  case word =>
    simp (disch := decide) only [extractLsb'_word, BitVec.extractLsb'_append_eq_of_add_le,
      BitVec.extractLsb'_append_eq_of_le, BitVec.extractLsb'_eq_self, Nat.reduceSub, and_self]

end Sys2Proof.Machine
end

section
/-! PROOFS. Everything one step of a command in flight can do, said once: the next state by the step that was next. -/

namespace Sys2Proof.Machine

/-- The steps at which nothing of a power or clock command has been written yet: those of the commands that touch neither,
and the first step of every list. -/
def plain : StepName → Bool
  | .X1 | .M1 | .A1 | .A2 | .D1 | .D2 | .D3 | .D4 | .P1 | .P2 | .P3 | .U1 | .U2 | .U3 | .U4 | .Z1 => true
  | .I1 | .S1 | .T1 | .G1 | .H1 | .V1 => true
  | .E1 | .Q1 | .B1 | .K .k1 => true
  | _ => false

theorem plain_firstStep (ins : Instr) : plain (firstStep ins) = true := by
  cases ins <;> rfl

theorem hasStep_firstStep {ins : Instr} (hp : ins.port = .C) : hasStep ins (firstStep ins) = true := by
  cases ins <;> cases hp <;> rfl

/-- The commands whose steps, but D4, U3 and U4, only look and answer. -/
def observes : Instr → Bool
  | .rbAvail _ | .rbRead _ | .rbPeek _ | .rbRdUntil _ _ | .millis | .clkCurrent | .bkpRead _ | .csrRead _ _ => true
  | _ => false

/-- What a step of the command in flight `f` makes of the state `s` (R120 to R260): one constructor for each step, a step
that only looks or answers under `looks` or `answers`, a hold that does not pass and B8 under `held`. -/
inductive FlightStep (s : State) : Flight → State → Prop
  /-- A hold that does not pass (R9); B8, where a standby command stays (R170). -/
  | held (f : Flight) : FlightStep s f s
  /-- A step that writes only the sequencer's temporaries. -/
  | looks (f f' : Flight) (ho : observes f.ins = true) (hi : f'.ins = f.ins) (hp : plain f.step = true) (hp' : plain f'.step = true)
      (hs : hasStep f.ins f'.step = true) : FlightStep s f { s with seq := .busy f' }
  /-- A last step that writes only the response. -/
  | answers (f : Flight) (w : Word) (ho : observes f.ins = true) (hp : plain f.step = true) : FlightStep s f (respondC .ok w s)
  | D4 (i : Byte) (h : Nat) (v : Byte) (n : Word) (c : ClkId) :
      FlightStep s ⟨.rbRead i, .D4, h, v, n, c⟩ (respondC .ok (v.setWidth 32) (dropOldest i.toNat s))
  | U3 (i t : Byte) (h : Nat) (v : Byte) (n : Word) (c : ClkId) :
      FlightStep s ⟨.rbRdUntil i t, .U3, h, v, n, c⟩
        (atStep (.rbRdUntil i t) .U4 h (oldestByte i.toNat s) n c (dropOldest i.toNat s))
  | U4 (i t : Byte) (h : Nat) (v : Byte) (n : Word) (c : ClkId) :
      FlightStep s ⟨.rbRdUntil i t, .U4, h, v, n, c⟩ (atStep (.rbRdUntil i t) .U2 h v (n + 1#32) c (emit i v s))
  | Z1 (i : Byte) (h : Nat) (v : Byte) (n : Word) (c : ClkId) :
      FlightStep s ⟨.rbInit i, .Z1, h, v, n, c⟩
        (respondC .ok 0#32 (setRing i.toNat { ringAt i.toNat s with head := 0, tail := 0 } s))
  | I1 (src : Byte) (h : Nat) (v : Byte) (n : Word) (c : ClkId) :
      FlightStep s ⟨.rtcInit src, .I1, h, v, n, c⟩
        (respondC .ok 0#32 { s with rtc := { s.rtc with src := (rtcSource src).getD s.rtc.src } })
  | S1 (d : Word) (h : Nat) (v : Byte) (n : Word) (c : ClkId) (hs : s.rtc.src ≠ .none) :
      FlightStep s ⟨.rtcArmSec d, .S1, h, v, n, c⟩ (respondC .ok 0#32 { s with rtc := armRtc .seconds d s.rtc })
  | T1 (d : Word) (h : Nat) (v : Byte) (n : Word) (c : ClkId) (hs : s.rtc.src ≠ .none) :
      FlightStep s ⟨.rtcArmMs d, .T1, h, v, n, c⟩ (respondC .ok 0#32 { s with rtc := armRtc .milliseconds d s.rtc })
  | H1 (k : Byte) (w : Word) (h : Nat) (v : Byte) (n : Word) (c : ClkId) :
      FlightStep s ⟨.bkpWrite k w, .H1, h, v, n, c⟩ (respondC .ok 0#32 (bkpSet k w s))
  -- `CLK_SELECT` (R240, R242)
  | K1 (x : Byte) (h : Nat) (v : Byte) (n : Word) (c : ClkId) :
      FlightStep s ⟨.clkSelect x, .K .k1, h, v, n, c⟩
        (atStep (.clkSelect x) (.K .k2) h v n x { s with clk := { s.clk with wait := .osc } })
  | K2 (x : Byte) (h : Nat) (v : Byte) (n : Word) (c : ClkId) (hw : s.clk.wait = .none) :
      FlightStep s ⟨.clkSelect x, .K .k2, h, v, n, c⟩
        (atStep (.clkSelect x) (.K .k3) h v n x { s with clk := { s.clk with wait := .src } })
  | K3 (x : Byte) (h : Nat) (v : Byte) (n : Word) (c : ClkId) (hw : s.clk.wait = .none) :
      FlightStep s ⟨.clkSelect x, .K .k3, h, v, n, c⟩
        (atStep (.clkSelect x) (.K .k4) h v n x { s with clk := { s.clk with wait := .sw } })
  | K4 (x : Byte) (h : Nat) (v : Byte) (n : Word) (c : ClkId) (hw : s.clk.wait = .none) :
      FlightStep s ⟨.clkSelect x, .K .k4, h, v, n, c⟩
        (atStep (.clkSelect x) (.K .k5) h v n x { s with clk := { s.clk with active := x } })
  | K5 (x : Byte) (h : Nat) (v : Byte) (n : Word) (c : ClkId) :
      FlightStep s ⟨.clkSelect x, .K .k5, h, v, n, c⟩
        (atStep (.clkSelect x) (.K .k6) h v n x
          { s with clk := { s.clk with tickCfg := x }, pwr := { s.pwr with tickie := true } })
  | K6 (x : Byte) (h : Nat) (v : Byte) (n : Word) (c : ClkId) :
      FlightStep s ⟨.clkSelect x, .K .k6, h, v, n, c⟩ (respondC .ok 0#32 { s with clk := { s.clk with current := x } })
  -- The timed commands (R161)
  | E1 {ins : Instr} (ht : (timedOf ins).isSome = true) (h : Nat) (v : Byte) (n : Word) (c : ClkId) :
      FlightStep s ⟨ins, .E1, h, v, n, c⟩ (atStep ins .E2 h v n c { s with pwr := { s.pwr with gie := false } })
  | E2 {ins : Instr} (ht : (timedOf ins).isSome = true) (h : Nat) (v : Byte) (n : Word) (c : ClkId) :
      FlightStep s ⟨ins, .E2, h, v, n, c⟩ (atStep ins .E3 h v n c { s with pwr := { s.pwr with tickie := false } })
  | E3 {ins : Instr} (ht : (timedOf ins).isSome = true) (h : Nat) (v : Byte) (n : Word) (c : ClkId) :
      FlightStep s ⟨ins, .E3, h, v, n, c⟩ (atStep ins .E4 h v n c { s with pwr := { s.pwr with rtcie := true } })
  | E4 {ins : Instr} {lp deep : Bool} {u : TimeUnit} {d : Word} (ht : timedOf ins = some (lp, deep, u, d)) (h : Nat)
      (v : Byte) (n : Word) (c : ClkId) (hs : s.rtc.src ≠ .none) :
      FlightStep s ⟨ins, .E4, h, v, n, c⟩ (atStep ins .E5 h v n c { s with rtc := armRtc u d s.rtc })
  | E5 {ins : Instr} {lp deep : Bool} {u : TimeUnit} {d : Word} (ht : timedOf ins = some (lp, deep, u, d)) (h : Nat)
      (v : Byte) (n : Word) (c : ClkId) :
      FlightStep s ⟨ins, .E5, h, v, n, c⟩ (atStep ins .E6 h v n c { s with pwr := { s.pwr with lpreg := lp } })
  | E6 {ins : Instr} {lp deep : Bool} {u : TimeUnit} {d : Word} (ht : timedOf ins = some (lp, deep, u, d)) (h : Nat)
      (v : Byte) (n : Word) (c : ClkId) :
      FlightStep s ⟨ins, .E6, h, v, n, c⟩
        (atStep ins (if lp = true then .E7 else .E11) h v n c { s with pwr := { s.pwr with deep := deep } })
  | E7 {ins : Instr} (ht : (timedOf ins).isSome = true) (h : Nat) (v : Byte) (n : Word) (c : ClkId) :
      FlightStep s ⟨ins, .E7, h, v, n, c⟩ (atStep ins .E8 h v n c { s with pwr := { s.pwr with prefetch := false } })
  | E8 {ins : Instr} (ht : (timedOf ins).isSome = true) (h : Nat) (v : Byte) (n : Word) (c : ClkId) :
      FlightStep s ⟨ins, .E8, h, v, n, c⟩ (atStep ins .E9 h v n c { s with pwr := { s.pwr with flashpd := true } })
  | E9 {ins : Instr} (ht : (timedOf ins).isSome = true) (h : Nat) (v : Byte) (n : Word) (c : ClkId) :
      FlightStep s ⟨ins, .E9, h, v, n, c⟩ (atStep ins (.E10 .k1) h v n c (clockTreeReset s))
  | E10k1 {ins : Instr} (ht : (timedOf ins).isSome = true) (h : Nat) (v : Byte) (n : Word) (c : ClkId) :
      FlightStep s ⟨ins, .E10 .k1, h, v, n, c⟩
        (atStep ins (.E10 .k2) h v n clkLp { s with clk := { s.clk with wait := .osc } })
  | E10k2 {ins : Instr} (ht : (timedOf ins).isSome = true) (h : Nat) (v : Byte) (n : Word) (c : ClkId)
      (hw : s.clk.wait = .none) :
      FlightStep s ⟨ins, .E10 .k2, h, v, n, c⟩
        (atStep ins (.E10 .k3) h v n c { s with clk := { s.clk with wait := .src } })
  | E10k3 {ins : Instr} (ht : (timedOf ins).isSome = true) (h : Nat) (v : Byte) (n : Word) (c : ClkId)
      (hw : s.clk.wait = .none) :
      FlightStep s ⟨ins, .E10 .k3, h, v, n, c⟩
        (atStep ins (.E10 .k4) h v n c { s with clk := { s.clk with wait := .sw } })
  | E10k4 {ins : Instr} (ht : (timedOf ins).isSome = true) (h : Nat) (v : Byte) (n : Word) (c : ClkId)
      (hw : s.clk.wait = .none) :
      FlightStep s ⟨ins, .E10 .k4, h, v, n, c⟩ (atStep ins .E11 h v n c { s with clk := { s.clk with active := clkLp } })
  | E11 {ins : Instr} (ht : (timedOf ins).isSome = true) (h : Nat) (v : Byte) (n : Word) (c : ClkId) :
      FlightStep s ⟨ins, .E11, h, v, n, c⟩ (atStep ins .E12 h v n c (enterWait s))
  | E12 {ins : Instr} (ht : (timedOf ins).isSome = true) (h : Nat) (v : Byte) (n : Word) (c : ClkId)
      (hw : timedWake s = true) :
      FlightStep s ⟨ins, .E12, h, v, n, c⟩ (atStep ins .W1 h v n c { s with pwr := { s.pwr with pstate := .active } })
  | W7 {ins : Instr} {lp deep : Bool} {u : TimeUnit} {d : Word} (ht : timedOf ins = some (lp, deep, u, d)) (h : Nat)
      (v : Byte) (n : Word) (c : ClkId) (hs : s.rtc.src ≠ .none) :
      FlightStep s ⟨ins, .W7, h, v, n, c⟩ (respondC .ok 0#32 { s with rtc := armRtc u 0#32 s.rtc })
  -- The Wake list (R168)
  | W1 {ins : Instr} (hi : wakes ins = true) (h : Nat) (v : Byte) (n : Word) (c : ClkId) :
      FlightStep s ⟨ins, .W1, h, v, n, c⟩ (atStep ins .W2 h v n c { s with pwr := { s.pwr with lpreg := false } })
  | W2 {ins : Instr} (hi : wakes ins = true) (h : Nat) (v : Byte) (n : Word) (c : ClkId) (hr : s.pwr.reglpf = false) :
      FlightStep s ⟨ins, .W2, h, v, n, c⟩ (atStep ins .W3 h v n c s)
  | W3 {ins : Instr} (hi : wakes ins = true) (h : Nat) (v : Byte) (n : Word) (c : ClkId) :
      FlightStep s ⟨ins, .W3, h, v, n, c⟩ (atStep ins (.W4 .k1) h v n c (clockTreeReset s))
  | W4k1 {ins : Instr} (hi : wakes ins = true) (h : Nat) (v : Byte) (n : Word) (c : ClkId)
      (hc : s.clk.current ≠ clkNone) :
      FlightStep s ⟨ins, .W4 .k1, h, v, n, c⟩
        (atStep ins (.W4 .k2) h v n s.clk.current { s with clk := { s.clk with wait := .osc } })
  | W4k2 {ins : Instr} (hi : wakes ins = true) (h : Nat) (v : Byte) (n : Word) (c : ClkId) (hw : s.clk.wait = .none) :
      FlightStep s ⟨ins, .W4 .k2, h, v, n, c⟩
        (atStep ins (.W4 .k3) h v n c { s with clk := { s.clk with wait := .src } })
  | W4k3 {ins : Instr} (hi : wakes ins = true) (h : Nat) (v : Byte) (n : Word) (c : ClkId) (hw : s.clk.wait = .none) :
      FlightStep s ⟨ins, .W4 .k3, h, v, n, c⟩
        (atStep ins (.W4 .k4) h v n c { s with clk := { s.clk with wait := .sw } })
  | W4k4 {ins : Instr} (hi : wakes ins = true) (h : Nat) (v : Byte) (n : Word) (c : ClkId) (hw : s.clk.wait = .none) :
      FlightStep s ⟨ins, .W4 .k4, h, v, n, c⟩
        (atStep ins (.W4 .k5) h v n c { s with clk := { s.clk with active := c } })
  | W4k5 {ins : Instr} (hi : wakes ins = true) (h : Nat) (v : Byte) (n : Word) (c : ClkId) :
      FlightStep s ⟨ins, .W4 .k5, h, v, n, c⟩
        (atStep ins (.W4 .k6) h v n c
          { s with clk := { s.clk with tickCfg := c }, pwr := { s.pwr with tickie := true } })
  | W4k6 {ins : Instr} (hi : wakes ins = true) (h : Nat) (v : Byte) (n : Word) (c : ClkId) :
      FlightStep s ⟨ins, .W4 .k6, h, v, n, c⟩ (atStep ins .W5 h v n c { s with clk := { s.clk with current := c } })
  | W5 {ins : Instr} (hi : wakes ins = true) (h : Nat) (v : Byte) (n : Word) (c : ClkId) :
      FlightStep s ⟨ins, .W5, h, v, n, c⟩
        (atStep ins .W6 h v n c { s with pwr := { s.pwr with gie := true, extpend := false } })
  | W6irq (h : Nat) (v : Byte) (n : Word) (c : ClkId) :
      FlightStep s ⟨.pmStopIrq, .W6, h, v, n, c⟩
        (respondC .ok 0#32 { s with pwr := { s.pwr with tickie := true } })
  | W6 {ins : Instr} (ht : (timedOf ins).isSome = true) (h : Nat) (v : Byte) (n : Word) (c : ClkId) :
      FlightStep s ⟨ins, .W6, h, v, n, c⟩ (atStep ins .W7 h v n c { s with pwr := { s.pwr with tickie := true } })
  -- `PM_STOP_IRQ` (R169)
  | Q1 (h : Nat) (v : Byte) (n : Word) (c : ClkId) :
      FlightStep s ⟨.pmStopIrq, .Q1, h, v, n, c⟩
        (atStep .pmStopIrq .Q2 h v n c { s with pwr := { s.pwr with gie := false } })
  | Q2 (h : Nat) (v : Byte) (n : Word) (c : ClkId) :
      FlightStep s ⟨.pmStopIrq, .Q2, h, v, n, c⟩
        (atStep .pmStopIrq .Q3 h v n c { s with pwr := { s.pwr with tickie := false } })
  | Q3 (h : Nat) (v : Byte) (n : Word) (c : ClkId) :
      FlightStep s ⟨.pmStopIrq, .Q3, h, v, n, c⟩
        (atStep .pmStopIrq .Q4 h v n c { s with pwr := { s.pwr with lpreg := false } })
  | Q4 (h : Nat) (v : Byte) (n : Word) (c : ClkId) :
      FlightStep s ⟨.pmStopIrq, .Q4, h, v, n, c⟩
        (atStep .pmStopIrq .Q5 h v n c { s with pwr := { s.pwr with deep := true } })
  | Q5 (h : Nat) (v : Byte) (n : Word) (c : ClkId) :
      FlightStep s ⟨.pmStopIrq, .Q5, h, v, n, c⟩ (atStep .pmStopIrq .Q6 h v n c (enterWait s))
  | Q6 (h : Nat) (v : Byte) (n : Word) (c : ClkId) (he : s.pwr.extpend = true) :
      FlightStep s ⟨.pmStopIrq, .Q6, h, v, n, c⟩
        (atStep .pmStopIrq .W1 h v n c { s with pwr := { s.pwr with pstate := .active } })
  -- The standby commands (R170 to R173)
  | B1 {ins : Instr} (hi : isStandby ins = true) (h : Nat) (v : Byte) (n : Word) (c : ClkId) :
      FlightStep s ⟨ins, .B1, h, v, n, c⟩ (atStep ins .B2 h v n c { s with pwr := { s.pwr with tickie := false } })
  | B2 {ins : Instr} (hi : isStandby ins = true) (h : Nat) (v : Byte) (n : Word) (c : ClkId) :
      FlightStep s ⟨ins, .B2, h, v, n, c⟩ (atStep ins .B3 h v n c { s with pwr := { s.pwr with wuf := false } })
  | B3 {ins : Instr} (hi : isStandby ins = true) (h : Nat) (v : Byte) (n : Word) (c : ClkId) :
      FlightStep s ⟨ins, .B3, h, v, n, c⟩
        (atStep ins (afterB3 ins) h v n c
          { s with pwr := { s.pwr with vrefen := false, tsen := false, pvden := false } })
  | B4sec (d : Word) (h : Nat) (v : Byte) (n : Word) (c : ClkId) (hs : s.rtc.src ≠ .none) :
      FlightStep s ⟨.pmStandbySec d, .B4, h, v, n, c⟩
        (atStep (.pmStandbySec d) .B5 h v n c { s with rtc := armRtc .seconds d s.rtc })
  | B4pin (p : Byte) (h : Nat) (v : Byte) (n : Word) (c : ClkId) :
      FlightStep s ⟨.pmStandbyPin p, .B4, h, v, n, c⟩
        (atStep (.pmStandbyPin p) .B5 h v n c { s with pwr := { s.pwr with wupen := enablePin p s.pwr.wupen } })
  | B5 {ins : Instr} (hi : isStandby ins = true) (h : Nat) (v : Byte) (n : Word) (c : ClkId) :
      FlightStep s ⟨ins, .B5, h, v, n, c⟩ (atStep ins .B6 h v n c { s with pwr := { s.pwr with pdds := true } })
  | B6 {ins : Instr} (hi : isStandby ins = true) (h : Nat) (v : Byte) (n : Word) (c : ClkId) :
      FlightStep s ⟨ins, .B6, h, v, n, c⟩ (atStep ins .B7 h v n c { s with pwr := { s.pwr with deep := true } })
  | B7 {ins : Instr} (hi : isStandby ins = true) (h : Nat) (v : Byte) (n : Word) (c : ClkId) :
      FlightStep s ⟨ins, .B7, h, v, n, c⟩ (atStep ins .B8 h v n c (enterWait s))

/-- The two model faults, where a step of the command in flight raises them (R272). The last case is one that the operand
check of `CLK_SELECT` rules out. -/
def FlightFault (s : State) (f : Flight) (r : Fault) : Prop :=
  (r = .rtcNotInitialised ∧ armStep f.ins f.step = true ∧ s.rtc.src = .none) ∨
    (r = .noClockRecorded ∧ wakes f.ins = true ∧ f.step = .W4 .k1 ∧ s.clk.current = clkNone) ∨
    f.ins = .clkSelect clkNone

/-- What one step of the command in flight comes to: a next state, a fault, or a refusal at a step it does not have. -/
def FlightOutcome (s : State) (f : Flight) : Out → Prop
  | .next t => FlightStep s f t
  | .fault r => FlightFault s f r
  | .refused _ => hasStep f.ins f.step = false

/-- A state with a command in flight is that command placed on it. -/
theorem eq_atStep {s : State} {ins : Instr} {st : StepName} {h : Nat} {v : Byte} {n : Word} {c : ClkId}
    (hs : s.seq = .busy ⟨ins, st, h, v, n, c⟩) : s = atStep ins st h v n c s := by
  rw [atStep, ← hs]

/-- A clock hold: held, or the step when no "ready" is awaited. -/
theorem flightOutcome_clockHold {s : State} {f : Flight} {g : Clk → Clk} {k : State → State}
    (h : s.clk.wait = .none → FlightStep s f (k { s with clk := g s.clk })) :
    FlightOutcome s f ((clockHold s g).andThen s k) := by
  unfold clockHold
  split
  case isTrue hw => exact h hw
  case isFalse => exact .held f

/-- An arm step: the fault, or the step when the RTC is initialised. -/
theorem flightOutcome_arm {s : State} {f : Flight} {u : TimeUnit} {d : Word} {k : State → State}
    (hf : armStep f.ins f.step = true)
    (h : s.rtc.src ≠ .none → FlightStep s f (k { s with rtc := armRtc u d s.rtc })) :
    FlightOutcome s f ((arm u d s).andThen s k) := by
  unfold arm
  split
  case isTrue hs => exact .inl ⟨rfl, hf, hs⟩
  case isFalse hs => exact h hs

/-- A wait that ends on a condition: held, or the step when the condition holds. -/
theorem flightOutcome_wait {s t : State} {f : Flight} {b : Bool} (h : b = true → FlightStep s f t) :
    FlightOutcome s f (if b = true then .next t else .next s) := by
  split
  case isTrue hb => exact h hb
  case isFalse => exact .held f

/-! ### One family of commands at a time, the command placed by `atStep` -/

section
variable {ins : Instr} (h : Nat) (v : Byte) (n : Word) (c : ClkId) (s : State)

/-- The Wake list (R168). -/
theorem flightOutcome_wakes (hw : wakes ins = true) {st : StepName} (hst : wakeListStep st = true) :
    FlightOutcome (atStep ins st h v n c s) ⟨ins, st, h, v, n, c⟩ (exec ins (atStep ins st h v n c s)) := by
  rw [exec_wakes hw hst]
  cases st <;> cases hst
  case W1 => exact .W1 hw h v n c
  case W2 =>
    simp only [wakeStep]
    split
    case isTrue => exact .held _
    case isFalse hr => exact .W2 hw h v n c (Bool.eq_false_iff.mpr hr)
  case W3 => exact .W3 hw h v n c
  case W4 k =>
    cases k with
    | k1 =>
      simp only [wakeStep, replayed, clockStep, if_true, atStep_clk]
      by_cases hc : s.clk.current = clkNone
      · rw [if_pos hc]; exact .inr (.inl ⟨rfl, hw, rfl, hc⟩)
      · rw [if_neg hc]; exact .W4k1 hw h v n c hc
    | k2 => simp only [wakeStep, clockStep]; exact flightOutcome_clockHold fun hwait => .W4k2 hw h v n c hwait
    | k3 => simp only [wakeStep, clockStep]; exact flightOutcome_clockHold fun hwait => .W4k3 hw h v n c hwait
    | k4 => simp only [wakeStep, clockStep]; exact flightOutcome_clockHold fun hwait => .W4k4 hw h v n c hwait
    | k5 => exact .W4k5 hw h v n c
    | k6 => exact .W4k6 hw h v n c
  case W5 => exact .W5 hw h v n c
  case W6 =>
    rcases wakes_iff.mp hw with rfl | ht
    · exact .W6irq h v n c
    · have hi : ins ≠ .pmStopIrq := by rintro rfl; cases ht
      simp only [wakeStep, afterWakeList, if_neg hi]
      exact .W6 ht h v n c

/-- The timed commands (R161 to R165). -/
theorem flightOutcome_timed {lp deep : Bool} {u : TimeUnit} {d : Word} (ht : timedOf ins = some (lp, deep, u, d))
    (st : StepName) :
    FlightOutcome (atStep ins st h v n c s) ⟨ins, st, h, v, n, c⟩ (exec ins (atStep ins st h v n c s)) := by
  have hs : (timedOf ins).isSome = true := by rw [ht]; rfl
  have hw : wakes ins = true := wakes_iff.mpr (.inr hs)
  cases st with
  | W1 | W2 | W3 | W4 | W5 | W6 => exact flightOutcome_wakes h v n c s hw rfl
  | E1 => rw [exec_timed ht]; exact .E1 hs h v n c
  | E2 => rw [exec_timed ht]; exact .E2 hs h v n c
  | E3 => rw [exec_timed ht]; exact .E3 hs h v n c
  | E4 => simp only [exec_timed ht, timedStep]; exact flightOutcome_arm hs fun hr => .E4 ht h v n c hr
  | E5 => rw [exec_timed ht]; exact .E5 ht h v n c
  | E6 => rw [exec_timed ht]; exact .E6 ht h v n c
  | E7 => rw [exec_timed ht]; exact .E7 hs h v n c
  | E8 => rw [exec_timed ht]; exact .E8 hs h v n c
  | E9 => rw [exec_timed ht]; exact .E9 hs h v n c
  | E10 k =>
    rw [exec_timed ht]
    cases k with
    | k1 => exact .E10k1 hs h v n c
    | k2 => simp only [timedStep, clockDownStep, clockStep]; exact flightOutcome_clockHold fun hwait => .E10k2 hs h v n c hwait
    | k3 => simp only [timedStep, clockDownStep, clockStep]; exact flightOutcome_clockHold fun hwait => .E10k3 hs h v n c hwait
    | k4 => simp only [timedStep, clockDownStep, clockStep]; exact flightOutcome_clockHold fun hwait => .E10k4 hs h v n c hwait
    | k5 | k6 => exact Bool.and_false _
  | E11 => rw [exec_timed ht]; exact .E11 hs h v n c
  | E12 => simp only [exec_timed ht, timedStep]; exact flightOutcome_wait fun hwake => .E12 hs h v n c hwake
  | W7 => simp only [exec_timed ht, timedStep]; exact flightOutcome_arm hs fun hr => .W7 ht h v n c hr
  | _ =>
    rw [exec_timed ht]
    cases ins <;> cases ht <;> rfl

/-- `PM_STOP_IRQ` (R169). -/
theorem flightOutcome_pmStopIrq (st : StepName) :
    FlightOutcome (atStep .pmStopIrq st h v n c s) ⟨.pmStopIrq, st, h, v, n, c⟩
      (exec .pmStopIrq (atStep .pmStopIrq st h v n c s)) := by
  cases st with
  | W1 | W2 | W3 | W4 | W5 | W6 => exact flightOutcome_wakes h v n c s rfl rfl
  | Q1 => simp only [exec, execPmStopIrq, onPortC_atStep]; exact .Q1 h v n c
  | Q2 => simp only [exec, execPmStopIrq, onPortC_atStep]; exact .Q2 h v n c
  | Q3 => simp only [exec, execPmStopIrq, onPortC_atStep]; exact .Q3 h v n c
  | Q4 => simp only [exec, execPmStopIrq, onPortC_atStep]; exact .Q4 h v n c
  | Q5 => simp only [exec, execPmStopIrq, onPortC_atStep]; exact .Q5 h v n c
  | Q6 =>
    simp only [exec, execPmStopIrq, onPortC_atStep]
    exact flightOutcome_wait fun he => .Q6 h v n c he
  | _ => simp only [exec, execPmStopIrq, onPortC_atStep]; rfl

/-- The standby commands (R170 to R173). -/
theorem flightOutcome_standby (hi : isStandby ins = true) (st : StepName) :
    FlightOutcome (atStep ins st h v n c s) ⟨ins, st, h, v, n, c⟩ (exec ins (atStep ins st h v n c s)) := by
  rw [exec_standby hi]
  cases st with
  | B1 => exact .B1 hi h v n c
  | B2 => exact .B2 hi h v n c
  | B3 => exact .B3 hi h v n c
  | B4 =>
    cases ins <;> cases hi
    case pmStandby.refl => rfl
    case pmStandbySec.refl d => simp only [standbyStep, standbyB4]; exact flightOutcome_arm rfl fun hr => .B4sec d h v n c hr
    case pmStandbyPin.refl p => exact .B4pin p h v n c
  | B5 => exact .B5 hi h v n c
  | B6 => exact .B6 hi h v n c
  | B7 => exact .B7 hi h v n c
  | B8 => exact .held _
  | _ => cases ins <;> cases hi <;> rfl

/-- `CLK_SELECT` (R240). -/
theorem flightOutcome_clkSelect (x : Byte) (st : StepName) :
    FlightOutcome (atStep (.clkSelect x) st h v n c s) ⟨.clkSelect x, st, h, v, n, c⟩
      (exec (.clkSelect x) (atStep (.clkSelect x) st h v n c s)) := by
  simp only [exec, execClkSelect, onPortC_atStep]
  cases st with
  | K k =>
    cases k with
    | k1 =>
      simp only [clockStep]
      by_cases hx : x = clkNone
      · rw [if_pos hx]; exact .inr (.inr (congrArg Instr.clkSelect hx))
      · rw [if_neg hx]; exact .K1 x h v n c
    | k2 => simp only [clockStep]; exact flightOutcome_clockHold fun hw => .K2 x h v n c hw
    | k3 => simp only [clockStep]; exact flightOutcome_clockHold fun hw => .K3 x h v n c hw
    | k4 => simp only [clockStep]; exact flightOutcome_clockHold fun hw => .K4 x h v n c hw
    | k5 => exact .K5 x h v n c
    | k6 => exact .K6 x h v n c
  | _ => rfl

/-- `RB_AVAIL` (R132). -/
theorem flightOutcome_rbAvail (i : Byte) (st : StepName) :
    FlightOutcome (atStep (.rbAvail i) st h v n c s) ⟨.rbAvail i, st, h, v, n, c⟩
      (exec (.rbAvail i) (atStep (.rbAvail i) st h v n c s)) := by
  simp only [exec, execRbAvail, onPortC_atStep]
  cases st with
  | A1 => exact .looks _ ⟨.rbAvail i, .A2, _, v, n, c⟩ rfl rfl rfl rfl rfl
  | A2 => exact .answers _ _ rfl rfl
  | _ => rfl

/-- `RB_READ` (R133). -/
theorem flightOutcome_rbRead (i : Byte) (st : StepName) :
    FlightOutcome (atStep (.rbRead i) st h v n c s) ⟨.rbRead i, st, h, v, n, c⟩
      (exec (.rbRead i) (atStep (.rbRead i) st h v n c s)) := by
  simp only [exec, execRbRead, onPortC_atStep]
  cases st with
  | D1 => exact .looks _ ⟨.rbRead i, .D2, _, v, n, c⟩ rfl rfl rfl rfl rfl
  | D2 =>
    dsimp only
    split
    · exact .answers _ _ rfl rfl
    · exact .looks _ ⟨.rbRead i, .D3, h, v, n, c⟩ rfl rfl rfl rfl rfl
  | D3 => exact .looks _ ⟨.rbRead i, .D4, h, _, n, c⟩ rfl rfl rfl rfl rfl
  | D4 => exact .D4 i h v n c
  | _ => rfl

/-- `RB_PEEK` (R134). -/
theorem flightOutcome_rbPeek (i : Byte) (st : StepName) :
    FlightOutcome (atStep (.rbPeek i) st h v n c s) ⟨.rbPeek i, st, h, v, n, c⟩
      (exec (.rbPeek i) (atStep (.rbPeek i) st h v n c s)) := by
  simp only [exec, execRbPeek, onPortC_atStep]
  cases st with
  | P1 => exact .looks _ ⟨.rbPeek i, .P2, _, v, n, c⟩ rfl rfl rfl rfl rfl
  | P2 =>
    dsimp only
    split
    · exact .answers _ _ rfl rfl
    · exact .looks _ ⟨.rbPeek i, .P3, h, v, n, c⟩ rfl rfl rfl rfl rfl
  | P3 => exact .answers _ _ rfl rfl
  | _ => rfl

/-- `RB_RDUNTIL` (R135). -/
theorem flightOutcome_rbRdUntil (i t : Byte) (st : StepName) :
    FlightOutcome (atStep (.rbRdUntil i t) st h v n c s) ⟨.rbRdUntil i t, st, h, v, n, c⟩
      (exec (.rbRdUntil i t) (atStep (.rbRdUntil i t) st h v n c s)) := by
  simp only [exec, execRbRdUntil, onPortC_atStep]
  cases st with
  | U1 => exact .looks _ ⟨.rbRdUntil i t, .U2, h, v, 0#32, c⟩ rfl rfl rfl rfl rfl
  | U2 =>
    dsimp only
    split
    · exact .held _
    · exact .looks _ ⟨.rbRdUntil i t, .U3, h, v, n, c⟩ rfl rfl rfl rfl rfl
  | U3 => exact .U3 i t h v n c
  | U4 =>
    dsimp only
    split
    · exact .answers _ _ rfl rfl
    · exact .U4 i t h v n c
  | _ => rfl

/-- `RB_INIT` (R136). -/
theorem flightOutcome_rbInit (i : Byte) (st : StepName) :
    FlightOutcome (atStep (.rbInit i) st h v n c s) ⟨.rbInit i, st, h, v, n, c⟩
      (exec (.rbInit i) (atStep (.rbInit i) st h v n c s)) := by
  simp only [exec, execRbInit, onPortC_atStep]
  cases st with
  | Z1 => exact .Z1 i h v n c
  | _ => rfl

/-- The commands that answer a register in their one step (R120, R216, R241, R260). -/
theorem flightOutcome_reader (hi : ins = .millis ∨ ins = .clkCurrent ∨ (∃ k, ins = .bkpRead k) ∨ ∃ m b, ins = .csrRead m b)
    (st : StepName) :
    FlightOutcome (atStep ins st h v n c s) ⟨ins, st, h, v, n, c⟩ (exec ins (atStep ins st h v n c s)) := by
  obtain rfl | rfl | ⟨k, rfl⟩ | ⟨m, b, rfl⟩ := hi <;>
    simp only [exec, execMillis, execClkCurrent, execBkpRead, execCsrRead, onPortC_atStep]
  · cases st with
    | M1 => exact .answers _ _ rfl rfl
    | _ => rfl
  · cases st with
    | V1 => exact .answers _ _ rfl rfl
    | _ => rfl
  · cases st with
    | G1 => exact .answers _ _ rfl rfl
    | _ => rfl
  · cases st with
    | X1 => exact .answers _ _ rfl rfl
    | _ => rfl

/-- The commands that write the RTC domain in their one step (R210 to R212, R217). -/
theorem flightOutcome_rtc
    (hi : (∃ src, ins = .rtcInit src) ∨ (∃ d, ins = .rtcArmSec d ∨ ins = .rtcArmMs d) ∨ ∃ k w, ins = .bkpWrite k w)
    (st : StepName) :
    FlightOutcome (atStep ins st h v n c s) ⟨ins, st, h, v, n, c⟩ (exec ins (atStep ins st h v n c s)) := by
  obtain ⟨src, rfl⟩ | ⟨d, rfl | rfl⟩ | ⟨k, w, rfl⟩ := hi <;>
    simp only [exec, execRtcInit, execRtcArmSec, execRtcArmMs, execBkpWrite, onPortC_atStep]
  · cases st with
    | I1 => exact .I1 src h v n c
    | _ => rfl
  · cases st with
    | S1 => exact flightOutcome_arm rfl fun hr => .S1 d h v n c hr
    | _ => rfl
  · cases st with
    | T1 => exact flightOutcome_arm rfl fun hr => .T1 d h v n c hr
    | _ => rfl
  · cases st with
    | H1 => exact .H1 k w h v n c
    | _ => rfl

end

/-- Everything one step of a command in flight can come to. -/
theorem exec_flight {s : State} {f : Flight} (hs : s.seq = .busy f) (hp : f.ins.port = .C) :
    FlightOutcome s f (exec f.ins s) := by
  obtain ⟨ins, st, h, v, n, c⟩ := f
  rw [eq_atStep hs]
  cases ins with
  | rbInsert i b => cases hp
  | pmSleep | pmLpSleep | pmStop | pmLpStop => exact flightOutcome_timed h v n c s rfl st
  | pmStopIrq => exact flightOutcome_pmStopIrq h v n c s st
  | pmStandby | pmStandbySec | pmStandbyPin => exact flightOutcome_standby h v n c s rfl st
  | clkSelect x => exact flightOutcome_clkSelect h v n c s x st
  | rbAvail i => exact flightOutcome_rbAvail h v n c s i st
  | rbRead i => exact flightOutcome_rbRead h v n c s i st
  | rbPeek i => exact flightOutcome_rbPeek h v n c s i st
  | rbRdUntil i t => exact flightOutcome_rbRdUntil h v n c s i t st
  | rbInit i => exact flightOutcome_rbInit h v n c s i st
  | millis => exact flightOutcome_reader h v n c s (.inl rfl) st
  | clkCurrent => exact flightOutcome_reader h v n c s (.inr (.inl rfl)) st
  | bkpRead k => exact flightOutcome_reader h v n c s (.inr (.inr (.inl ⟨k, rfl⟩))) st
  | csrRead m b => exact flightOutcome_reader h v n c s (.inr (.inr (.inr ⟨m, b, rfl⟩))) st
  | rtcInit src => exact flightOutcome_rtc h v n c s (.inl ⟨src, rfl⟩) st
  | rtcArmSec d => exact flightOutcome_rtc h v n c s (.inr (.inl ⟨d, .inl rfl⟩)) st
  | rtcArmMs d => exact flightOutcome_rtc h v n c s (.inr (.inl ⟨d, .inr rfl⟩)) st
  | bkpWrite k w => exact flightOutcome_rtc h v n c s (.inr (.inr ⟨k, w, rfl⟩)) st

/-- A step of the command in flight that answers a next state. -/
theorem flightStep_of_exec {s t : State} {f : Flight} (hs : s.seq = .busy f) (hp : f.ins.port = .C)
    (h : exec f.ins s = .next t) : FlightStep s f t := by
  have ho := exec_flight hs hp
  rwa [h] at ho

/-- A step of the command in flight that faults. -/
theorem flightFault_of_exec {s : State} {f : Flight} {r : Fault} (hs : s.seq = .busy f) (hp : f.ins.port = .C)
    (h : exec f.ins s = .fault r) : FlightFault s f r := by
  have ho := exec_flight hs hp
  rwa [h] at ho

end Sys2Proof.Machine
end

section
/-! PROOFS. The invariant: it holds at reset, and every step of every agent keeps it. -/

namespace Sys2Proof.Machine

/-! ### What holds while a command is in flight -/

/-- A plain step, or one after which a power or clock command has cleaned up: what is next may be the last step. -/
def calm (st : StepName) : Bool := plain st || st == .W6 || st == .W7 || st == .K .k6

/-- At a calm step every table of the power and clock fields has its quiet value. -/
theorem calm_tables {st : StepName} (hp : calm st = true) (ins : Instr) (deep : Bool) :
    masked st = false ∧ tickOff st = false ∧ pstateAt ins st = .active ∧ lpregAt ins st = false ∧
      reglpfMay ins st = false ∧ pddsAt st = false ∧ deepOk ins deep st = true ∧ wupenAt ins st = 0#3 ∧
      awaitedAt st = .none := by
  cases st with
  | K k =>
    cases k with
    | k1 | k6 => cases ins <;> exact ⟨rfl, rfl, rfl, rfl, rfl, rfl, rfl, rfl, rfl⟩
    | _ => cases hp
  | X1 | M1 | A1 | A2 | D1 | D2 | D3 | D4 | P1 | P2 | P3 | U1 | U2 | U3 | U4 | Z1 | I1 | S1 | T1 | G1 | H1 | V1 | E1 | Q1
  | B1 | W6 | W7 =>
    cases ins <;> exact ⟨rfl, rfl, rfl, rfl, rfl, rfl, rfl, rfl, rfl⟩
  | _ => cases hp

theorem calm_of_plain {st : StepName} (hp : plain st = true) : calm st = true := by
  rw [calm, hp]; rfl

/-- A plain step is neither in the Wake list nor past E3: nothing is replayed and the RTC need not be ready. -/
theorem plain_ready {f : Flight} (hp : plain f.step = true) (c : Clk) (p : Params) (r : Rtc) (rtcie : Bool) :
    replayOk c p f = true ∧ rtcReady f.ins r rtcie f.step = true := by
  obtain ⟨ins, st, h, v, n, x⟩ := f
  cases st with
  | E4 | E5 | E6 | E7 | E8 | E9 | E10 | E11 | E12 | W1 | W2 | W3 | W4 | W5 | W6 | W7 => cases hp
  | _ => exact ⟨rfl, rfl⟩

/-- At a calm step nothing of a power command is left. -/
theorem InFlight.quiet {f : Flight} {cfg : Params} {p : Pwr} {c : Clk} {r : Rtc} (h : InFlight f cfg p c r)
    (hp : calm f.step = true) : Quiet p c := by
  obtain ⟨hm, -, hs, hl, hr, hd, -, hw, ha⟩ := calm_tables hp f.ins p.deep
  have hg : p.gie = true := by rw [h.gie, hm]; rfl
  have hps := h.pstate.trans hs
  exact {
    pstate := hps
    gie := hg
    extpend := h.extpend ((intCtx_eq_true_iff p).mpr ⟨hg, hps⟩)
    lpreg := h.lpreg.trans hl
    reglpf := Bool.eq_false_iff.mpr fun hc => Bool.false_ne_true (hr.symm.trans (h.reglpf hc))
    pdds := h.pdds.trans hd
    wupen := h.wupen.trans hw
    wait := h.wait.elim id fun hc => hc.trans ha }

/-- Nothing of a power command is left, and a plain step of the command is next. -/
theorem Quiet.inFlight {p : Pwr} {c : Clk} (h : Quiet p c) {f : Flight} {cfg : Params} {r : Rtc}
    (hport : f.ins.port = .C) (hw : f.ins.wellFormed cfg = true) (hs : hasStep f.ins f.step = true)
    (hp : plain f.step = true) : InFlight f cfg p c r := by
  obtain ⟨hm, ht, hst, hl, -, hd, hdeep, hwu, -⟩ := calm_tables (calm_of_plain hp) f.ins p.deep
  obtain ⟨hreplay, hrtc⟩ := plain_ready hp c cfg r p.rtcie
  exact {
    port := hport
    operands := hw
    step := hs
    gie := by rw [hm]; exact h.gie
    tick := fun hc => absurd (ht.symm.trans hc) Bool.false_ne_true
    pstate := h.pstate.trans hst.symm
    extpend := fun _ => h.extpend
    lpreg := h.lpreg.trans hl.symm
    reglpf := fun hc => absurd (h.reglpf.symm.trans hc) Bool.false_ne_true
    pdds := h.pdds.trans hd.symm
    deep := hdeep
    wupen := h.wupen.trans hwu.symm
    wait := .inl h.wait
    replay := hreplay
    rtc := hrtc }

/-- A command just accepted, at its first step. -/
theorem inv_accepted {s : State} {ins : Instr} (h : Inv s) (hs : s.seq = .idle) (hp : ins.port = .C)
    (hw : ins.wellFormed s.cfg = true) : Inv (accepted ins s) := by
  have hq : SeqOk .idle s.cfg s.pwr s.clk s.rtc := hs ▸ h.seq
  exact ⟨h.cfg, h.rings, h.clkIds, h.rtcBits,
    Quiet.inFlight hq (f := ⟨ins, firstStep ins, 0, 0#8, 0#32, 0#8⟩) hp hw (hasStep_firstStep hp) (plain_firstStep ins)⟩

/-! ### The parts of the invariant that few steps touch -/

theorem deepBit_of_timed {ins : Instr} {lp deep : Bool} {u : TimeUnit} {d : Word}
    (ht : timedOf ins = some (lp, deep, u, d)) : deepBit ins = deep := by
  simp [deepBit, ht]

theorem lpBit_of_timed {ins : Instr} {lp deep : Bool} {u : TimeUnit} {d : Word}
    (ht : timedOf ins = some (lp, deep, u, d)) : lpBit ins = lp := by
  simp [lpBit, ht]

/-- An instance in range has its ring. -/
theorem ring_exists {s : State} (h : ringsOk s = true) {i : Nat} (hi : i < s.cfg.nRb) : i < s.rings.length := by
  obtain ⟨hl, -⟩ := Bool.and_eq_true_iff.mp h
  rwa [of_decide_eq_true hl]

/-- No step of the command in flight writes `TICK`, `FAULTED`, the parameters, the scripts or the schedule. -/
theorem FlightStep.unwritten_eq {s t : State} {f : Flight} (hst : FlightStep s f t) : t.unwritten = s.unwritten := by
  cases hst <;> rfl

theorem FlightStep.cfg_eq {s t : State} {f : Flight} (hst : FlightStep s f t) : t.cfg = s.cfg :=
  congrArg Unwritten.cfg hst.unwritten_eq

/-- Moving `TAIL` on keeps the rings well formed. -/
theorem ringsOk_dropOldest {s : State} (hc : s.cfg.Legal) (h : ringsOk s = true) {i : Nat} (hi : i < s.cfg.nRb) :
    ringsOk (dropOldest i s) = true := by
  obtain ⟨⟨hcap, -⟩, -, -⟩ := hc
  obtain ⟨hh, -, hb⟩ := (Ring.ok_iff _ _).mp (ringAt_ok h hi)
  exact ringsOk_setRing h i _ ((Ring.ok_iff _ _).mpr ⟨hh, advance_lt _ hcap, hb⟩)

/-- Emptying a ring keeps the rings well formed. -/
theorem ringsOk_emptied {s : State} (hc : s.cfg.Legal) (h : ringsOk s = true) {i : Nat} (hi : i < s.cfg.nRb) :
    ringsOk (setRing i { ringAt i s with head := 0, tail := 0 } s) = true := by
  obtain ⟨⟨hcap, -⟩, -, -⟩ := hc
  obtain ⟨-, -, hb⟩ := (Ring.ok_iff _ _).mp (ringAt_ok h hi)
  exact ringsOk_setRing h i _ ((Ring.ok_iff _ _).mpr ⟨Nat.lt_of_lt_of_le Nat.two_pos hcap, Nat.lt_of_lt_of_le Nat.two_pos hcap, hb⟩)

/-- A served `RB_INSERT` keeps the rings well formed. -/
theorem ringsOk_insertByte {s : State} (hc : s.cfg.Legal) (h : ringsOk s = true) {i : Nat} (hi : i < s.cfg.nRb) (b : Byte) :
    ringsOk (insertByte i b s) = true := by
  obtain ⟨⟨hcap, -⟩, -, -⟩ := hc
  obtain ⟨-, he⟩ | ⟨-, he⟩ := insertByte_cases i b s
  · rw [he]; exact h
  · obtain ⟨hh, ht, hwf, hall⟩ := (Ring.ok_iff _ _).mp (ringAt_ok h hi)
    rw [he (ring_exists h hi)]
    exact ringsOk_setRing h i _ ((Ring.ok_iff _ _).mpr ⟨advance_lt _ hcap, ht, Memory.wf_write _ _ _ hwf,
      Memory.all_write _ _ _ (fun a => decide (a < s.cfg.cap)) (decide_eq_true hh) hall⟩)

/-- The rings after a step of the command in flight. -/
theorem FlightStep.keeps_ringsOk {s t : State} {f : Flight} (hst : FlightStep s f t) (hi : Inv s)
    (hw : f.ins.wellFormed s.cfg = true) : ringsOk t = true := by
  cases hst with
  | D4 => exact ringsOk_dropOldest hi.cfg hi.rings (of_decide_eq_true hw)
  | U3 => exact ringsOk_dropOldest hi.cfg hi.rings (of_decide_eq_true hw)
  | Z1 => exact ringsOk_emptied hi.cfg hi.rings (of_decide_eq_true hw)
  | _ => exact hi.rings

theorem rtcBitsOk_of_src {s : State} (h : s.rtc.src ≠ .none) : rtcBitsOk s = true := by
  rw [rtcBitsOk, decide_eq_true h]; rfl

/-- A legal source operand names a source. -/
theorem rtcSource_ne_none {x : Byte} {p : Params} (h : (Instr.rtcInit x).wellFormed p = true) (d : RtcSrc) :
    (rtcSource x).getD d ≠ .none := by
  obtain rfl | rfl := of_decide_eq_true h <;> simp [rtcSource]

/-- The comparator bits after a step of the command in flight: an arm step has an initialised RTC. -/
theorem FlightStep.keeps_rtcBitsOk {s t : State} {f : Flight} (hst : FlightStep s f t) (hi : Inv s)
    (hw : f.ins.wellFormed s.cfg = true) : rtcBitsOk t = true := by
  cases hst with
  | I1 => exact rtcBitsOk_of_src (rtcSource_ne_none hw _)
  | S1 _ _ _ _ _ hs | T1 _ _ _ _ _ hs | E4 _ _ _ _ _ hs | W7 _ _ _ _ _ hs | B4sec _ _ _ _ _ hs =>
    exact rtcBitsOk_of_src (s := { s with rtc := armRtc _ _ s.rtc }) (by rwa [armRtc_src])
  | _ => exact hi.rtcBits

theorem clkIdsOk_iff (s : State) :
    clkIdsOk s = true ↔
      (selectable s.cfg s.clk.active = true ∨ s.clk.active = clkLp ∨ s.clk.active = clkResetDef) ∧
        (selectable s.cfg s.clk.current = true ∨ s.clk.current = clkNone) ∧
        (selectable s.cfg s.clk.tickCfg = true ∨ s.clk.tickCfg = clkNone) := by
  simp [clkIdsOk, and_assoc, or_assoc]

theorem replayOk_k2 {c : Clk} {p : Params} {ins : Instr} {h : Nat} {v : Byte} {n : Word} {x : ClkId} {k : KStep}
    (hk : k = .k2 ∨ k = .k3 ∨ k = .k4) :
    replayOk c p ⟨ins, .W4 k, h, v, n, x⟩ = true ↔ selectable p c.current = true ∧ x = c.current := by
  obtain rfl | rfl | rfl := hk <;> simp [replayOk, replayOkAt]

theorem replayOk_k5 {c : Clk} {p : Params} {ins : Instr} {h : Nat} {v : Byte} {n : Word} {x : ClkId} :
    replayOk c p ⟨ins, .W4 .k5, h, v, n, x⟩ = true ↔
      selectable p c.current = true ∧ x = c.current ∧ c.active = c.current := by
  simp [replayOk, replayOkAt]

theorem replayOk_k6 {c : Clk} {p : Params} {ins : Instr} {h : Nat} {v : Byte} {n : Word} {x : ClkId} :
    replayOk c p ⟨ins, .W4 .k6, h, v, n, x⟩ = true ↔
      selectable p c.current = true ∧ x = c.current ∧ c.active = c.current ∧ c.tickCfg = c.current := by
  simp [replayOk, replayOkAt, and_assoc]

/-- Past W4 the three clock ids agree. -/
theorem replayOk_done {c : Clk} {p : Params} {f : Flight} (hst : f.step = .W5 ∨ f.step = .W6 ∨ f.step = .W7) :
    replayOk c p f = true ↔ selectable p c.current = true ∧ c.active = c.current ∧ c.tickCfg = c.current := by
  obtain hst | hst | hst := hst <;> simp [replayOk, hst, and_assoc]

/-- The clock ids after a step of the command in flight: operands, constants, or the recorded id replayed. -/
theorem FlightStep.keeps_clkIdsOk {s t : State} {f : Flight} (hst : FlightStep s f t) (hi : clkIdsOk s = true)
    (hf : InFlight f s.cfg s.pwr s.clk s.rtc) : clkIdsOk t = true := by
  have hw := hf.operands
  have hr := hf.replay
  obtain ⟨ha, hc, ht⟩ := (clkIdsOk_iff s).mp hi
  cases hst with
  | K4 => exact (clkIdsOk_iff _).mpr ⟨.inl hw, hc, ht⟩
  | K5 => exact (clkIdsOk_iff _).mpr ⟨ha, hc, .inl hw⟩
  | K6 => exact (clkIdsOk_iff _).mpr ⟨ha, .inl hw, ht⟩
  | E9 | W3 => exact (clkIdsOk_iff _).mpr ⟨.inr (.inr rfl), hc, ht⟩
  | E10k4 => exact (clkIdsOk_iff _).mpr ⟨.inr (.inl rfl), hc, ht⟩
  | W4k4 =>
    obtain ⟨hs, rfl⟩ := (replayOk_k2 (.inr (.inr rfl))).mp hr
    exact (clkIdsOk_iff _).mpr ⟨.inl hs, hc, ht⟩
  | W4k5 =>
    obtain ⟨hs, rfl, -⟩ := replayOk_k5.mp hr
    exact (clkIdsOk_iff _).mpr ⟨ha, hc, .inl hs⟩
  | W4k6 =>
    obtain ⟨hs, rfl, -⟩ := replayOk_k6.mp hr
    exact (clkIdsOk_iff _).mpr ⟨ha, .inl hs, ht⟩
  | _ => exact hi

/-! ### The sequencer's part -/

theorem seqOk_atStep {u : State} {ins : Instr} {st : StepName} {h : Nat} {v : Byte} {n : Word} {c : ClkId}
    (hf : InFlight ⟨ins, st, h, v, n, c⟩ u.cfg u.pwr u.clk u.rtc) :
    SeqOk (atStep ins st h v n c u).seq (atStep ins st h v n c u).cfg (atStep ins st h v n c u).pwr
      (atStep ins st h v n c u).clk (atStep ins st h v n c u).rtc := hf

theorem seqOk_respondC {u : State} {w : Word} (hq : Quiet u.pwr u.clk) :
    SeqOk (respondC .ok w u).seq (respondC .ok w u).cfg (respondC .ok w u).pwr (respondC .ok w u).clk
      (respondC .ok w u).rtc := hq

theorem not_intCtx_of_gie {p : Pwr} {P : Prop} (hc : intCtx p = true) (h : p.gie = false) : P :=
  absurd (h.symm.trans ((intCtx_eq_true_iff p).mp hc).1) Bool.false_ne_true

theorem not_intCtx_of_pstate {p : Pwr} {P : Prop} (hc : intCtx p = true) (h : p.pstate ≠ .active) : P :=
  absurd ((intCtx_eq_true_iff p).mp hc).2 h

/-- The wait step of a timed command or `PM_STOP_IRQ` (R166). -/
theorem waitState_of_deep {p : Pwr} {b : Bool} (hd : p.deep = b) (hp : p.pdds = false) :
    waitState p = if b = true then .stopWait else .sleepWait := by
  simp [waitState, hd, hp]

theorem waitState_standby {p : Pwr} (hd : p.deep = true) (hp : p.pdds = true) : waitState p = .standbyWait := by
  simp [waitState, hd, hp]

/-- `REGLPF` after a wait step: 1 only if `LPREG` was, before which it was 0. -/
theorem lpreg_of_reglpf {p : Pwr} (hr : p.reglpf = true → false = true) (h : (p.lpreg || p.reglpf) = true) :
    p.lpreg = true := by
  rcases Bool.or_eq_true_iff.mp h with hl | hp
  · exact hl
  · exact absurd (hr hp) Bool.false_ne_true

/-- The steps past B4, where `PM_STANDBY_PIN` has enabled its pin. -/
def pinned : StepName → Bool
  | .B5 | .B6 | .B7 | .B8 => true
  | _ => false

theorem wupenAt_eq (ins : Instr) (st : StepName) :
    wupenAt ins st = if pinned st = true then wupenAt ins .B5 else 0#3 := by
  cases ins with
  | pmStandbyPin => cases st <;> rfl
  | _ => exact (ite_self _).symm

theorem wupenAt_congr {ins : Instr} {st st' : StepName} (h : pinned st = pinned st') :
    wupenAt ins st = wupenAt ins st' := by
  rw [wupenAt_eq, wupenAt_eq ins st', h]

/-- The sequencer and its fields after a step of the command in flight. -/
theorem FlightStep.keeps_seqOk {s t : State} {f : Flight} (hst : FlightStep s f t) (hs : s.seq = .busy f)
    (hids : clkIdsOk s = true) (hf : InFlight f s.cfg s.pwr s.clk s.rtc) : SeqOk t.seq t.cfg t.pwr t.clk t.rtc := by
  have hwu {st : StepName} (h : pinned f.step = pinned st) : s.pwr.wupen = wupenAt f.ins st :=
    hf.wupen.trans (wupenAt_congr h)
  cases hst with
  | held => rw [hs]; exact hf
  | looks _ f' _ hi hp hp' hstep =>
    exact (hf.quiet (calm_of_plain hp)).inFlight (hi ▸ hf.port) (hi ▸ hf.operands) (hi ▸ hstep) hp'
  | answers _ _ _ hp => exact hf.quiet (calm_of_plain hp)
  | D4 | Z1 | I1 | S1 | T1 | H1 | W7 => exact hf.quiet rfl
  | U3 => exact (hf.quiet rfl).inFlight hf.port hf.operands rfl rfl
  | U4 => exact (hf.quiet rfl).inFlight hf.port hf.operands rfl rfl
  | K1 => exact seqOk_atStep { hf with wait := .inr rfl }
  | K2 => exact seqOk_atStep { hf with wait := .inr rfl }
  | K3 => exact seqOk_atStep { hf with wait := .inr rfl }
  | K4 _ _ _ _ _ hw => exact seqOk_atStep { hf with wait := .inl hw }
  | K5 => exact seqOk_atStep { hf with tick := fun hc => absurd hc Bool.false_ne_true }
  | K6 => exact seqOk_respondC { hf.quiet rfl with }
  | E1 => exact seqOk_atStep { hf with wupen := hwu rfl, gie := rfl, extpend := fun hc => not_intCtx_of_gie hc rfl }
  | E2 => exact seqOk_atStep { hf with wupen := hwu rfl, tick := fun _ => rfl }
  | E3 => exact seqOk_atStep { hf with wupen := hwu rfl, rtc := rfl }
  | E4 _ _ _ _ _ hr =>
    exact seqOk_atStep { hf with
      wupen := hwu rfl
      rtc := Bool.and_eq_true_iff.mpr ⟨hf.rtc, decide_eq_true (by rwa [armRtc_src])⟩ }
  | E5 ht => exact seqOk_atStep { hf with wupen := hwu rfl, lpreg := (lpBit_of_timed ht).symm }
  | @E6 ins lp deep u d ht =>
    have hl := lpBit_of_timed ht
    have hd : (deep == deepBit ins) = true := beq_iff_eq.mpr (deepBit_of_timed ht).symm
    cases lp with
    | true => exact seqOk_atStep { hf with wupen := hwu rfl, step := hl, deep := hd }
    | false => exact seqOk_atStep { hf with wupen := hwu rfl, deep := hd }
  | E7 => exact seqOk_atStep { hf with wupen := hwu rfl }
  | E8 => exact seqOk_atStep { hf with wupen := hwu rfl }
  | E9 => exact seqOk_atStep { hf with wupen := hwu rfl, step := (Bool.and_true _).trans hf.step, wait := .inl rfl }
  | E10k1 => exact seqOk_atStep { hf with wupen := hwu rfl, wait := .inr rfl }
  | E10k2 => exact seqOk_atStep { hf with wupen := hwu rfl, wait := .inr rfl }
  | E10k3 => exact seqOk_atStep { hf with wupen := hwu rfl, wait := .inr rfl }
  | E10k4 ht _ _ _ _ hw => exact seqOk_atStep { hf with wupen := hwu rfl, step := ht, wait := .inl hw }
  | E11 =>
    exact seqOk_atStep { hf with
      wupen := hwu rfl
      pstate := waitState_of_deep (beq_iff_eq.mp hf.deep) hf.pdds
      extpend := fun hc => not_intCtx_of_gie hc hf.gie
      reglpf := fun hc => hf.lpreg.symm.trans (lpreg_of_reglpf hf.reglpf hc)
      deep := rfl }
  | E12 ht =>
    exact seqOk_atStep { hf with
      wupen := hwu rfl
      step := wakes_iff.mpr (.inr ht)
      pstate := rfl
      extpend := fun hc => not_intCtx_of_gie hc hf.gie
      rtc := Bool.or_eq_true_iff.mpr (.inr hf.rtc) }
  | W1 => exact seqOk_atStep { hf with wupen := hwu rfl, lpreg := rfl }
  | W2 _ _ _ _ _ hr => exact seqOk_atStep { hf with wupen := hwu rfl, reglpf := fun hc => absurd (hr.symm.trans hc) Bool.false_ne_true }
  | W3 => exact seqOk_atStep { hf with wupen := hwu rfl, wait := .inl rfl, replay := rfl }
  | W4k1 _ _ _ _ _ hc =>
    obtain ⟨-, hcur, -⟩ := (clkIdsOk_iff s).mp hids
    exact seqOk_atStep { hf with
      wupen := hwu rfl
      wait := .inr rfl, replay := (replayOk_k2 (.inl rfl)).mpr ⟨hcur.resolve_right hc, rfl⟩ }
  | W4k2 => exact seqOk_atStep { hf with wupen := hwu rfl, wait := .inr rfl }
  | W4k3 => exact seqOk_atStep { hf with wupen := hwu rfl, wait := .inr rfl }
  | W4k4 _ _ _ _ _ hw =>
    obtain ⟨hsel, hx⟩ := (replayOk_k2 (.inr (.inr rfl))).mp hf.replay
    exact seqOk_atStep { hf with wupen := hwu rfl, wait := .inl hw, replay := replayOk_k5.mpr ⟨hsel, hx, hx⟩ }
  | W4k5 =>
    obtain ⟨hsel, hx, ha⟩ := replayOk_k5.mp hf.replay
    exact seqOk_atStep { hf with
      wupen := hwu rfl
      tick := fun hc => absurd hc Bool.false_ne_true, replay := replayOk_k6.mpr ⟨hsel, hx, ha, hx⟩ }
  | W4k6 =>
    obtain ⟨hsel, rfl, ha, ht⟩ := replayOk_k6.mp hf.replay
    exact seqOk_atStep { hf with wupen := hwu rfl, replay := (replayOk_done (.inl rfl)).mpr ⟨hsel, ha, ht⟩ }
  | W5 => exact seqOk_atStep { hf with wupen := hwu rfl, gie := rfl, extpend := fun _ => rfl }
  | W6irq => exact seqOk_respondC { hf.quiet rfl with }
  | @W6 ins ht =>
    have hi : ins ≠ .pmStopIrq := by rintro rfl; cases ht
    exact seqOk_atStep { hf with
      wupen := hwu rfl
      step := ht
      tick := fun hc => absurd hc Bool.false_ne_true
      rtc := (Bool.or_eq_true_iff.mp hf.rtc).resolve_left fun hc => hi (beq_iff_eq.mp hc) }
  | Q1 => exact seqOk_atStep { hf with gie := rfl, extpend := fun hc => not_intCtx_of_gie hc rfl }
  | Q2 => exact seqOk_atStep { hf with tick := fun _ => rfl }
  | Q3 => exact seqOk_atStep { hf with lpreg := rfl }
  | Q4 => exact seqOk_atStep { hf with deep := rfl }
  | Q5 =>
    exact seqOk_atStep { hf with
      pstate := waitState_of_deep hf.deep hf.pdds
      extpend := fun hc => not_intCtx_of_gie hc hf.gie
      reglpf := fun hc => hf.lpreg.symm.trans (lpreg_of_reglpf hf.reglpf hc)
      deep := rfl }
  | Q6 => exact seqOk_atStep { hf with pstate := rfl, extpend := fun hc => not_intCtx_of_gie hc hf.gie, rtc := rfl }
  | B1 => exact seqOk_atStep { hf with wupen := hwu rfl, tick := fun _ => rfl }
  | B2 => exact seqOk_atStep { hf with wupen := hwu rfl }
  | @B3 ins hi h v n c => cases ins <;> cases hi <;> exact seqOk_atStep { hf with }
  | B4sec => exact seqOk_atStep { hf with }
  | B4pin p => exact seqOk_atStep { hf with wupen := congrArg (enablePin p) hf.wupen }
  | B5 => exact seqOk_atStep { hf with wupen := hwu rfl, pdds := rfl }
  | B6 => exact seqOk_atStep { hf with wupen := hwu rfl, deep := rfl }
  | B7 =>
    have hstate := waitState_standby hf.deep hf.pdds
    exact seqOk_atStep { hf with
      pstate := hstate
      extpend := fun hc => not_intCtx_of_pstate hc fun ha => nomatch hstate.symm.trans ha
      wupen := hwu rfl
      reglpf := fun hc => hf.lpreg.symm.trans (lpreg_of_reglpf hf.reglpf hc)
      deep := rfl }

/-- A step of the command in flight keeps the invariant. -/
theorem FlightStep.inv {s t : State} {f : Flight} (hst : FlightStep s f t) (hs : s.seq = .busy f) (hi : Inv s) :
    Inv t := by
  have hf : SeqOk (.busy f) s.cfg s.pwr s.clk s.rtc := hs ▸ hi.seq
  have hf : InFlight f s.cfg s.pwr s.clk s.rtc := hf
  exact ⟨hst.cfg_eq.symm ▸ hi.cfg, hst.keeps_ringsOk hi hf.operands, hst.keeps_clkIdsOk hi.clkIds hf,
    hst.keeps_rtcBitsOk hi hf.operands, hst.keeps_seqOk hs hi.clkIds hf⟩

/-! ### The events -/

/-- The sequencer's part of the invariant under a change of the power fields that the events make. -/
theorem SeqOk.setWuf {q : Seq} {cfg : Params} {p : Pwr} {c : Clk} {r : Rtc} (h : SeqOk q cfg p c r) (b : Bool) :
    SeqOk q cfg { p with wuf := b } c r := by
  cases q with
  | idle => exact { (h : Quiet p c) with }
  | busy f => exact { (h : InFlight f cfg p c r) with }

theorem SeqOk.clearReglpf {q : Seq} {cfg : Params} {p : Pwr} {c : Clk} {r : Rtc} (h : SeqOk q cfg p c r) :
    SeqOk q cfg { p with reglpf := false } c r := by
  cases q with
  | idle => exact { (h : Quiet p c) with reglpf := rfl }
  | busy f => exact { (h : InFlight f cfg p c r) with reglpf := fun hc => absurd hc Bool.false_ne_true }

/-- An external interrupt stays pending only where no handler can run, and then a command is in flight. -/
theorem SeqOk.setExtpend {q : Seq} {cfg : Params} {p : Pwr} {c : Clk} {r : Rtc} (h : SeqOk q cfg p c r)
    (hi : ¬ intCtx p = true) : SeqOk q cfg { p with extpend := true } c r := by
  cases q with
  | idle => exact absurd ((intCtx_eq_true_iff p).mpr ⟨Quiet.gie h, Quiet.pstate h⟩) hi
  | busy f => exact { (h : InFlight f cfg p c r) with extpend := fun hc => absurd hc hi }

theorem SeqOk.clearWait {q : Seq} {cfg : Params} {p : Pwr} {c : Clk} {r : Rtc} (h : SeqOk q cfg p c r) :
    SeqOk q cfg p { c with wait := .none } r := by
  cases q with
  | idle => exact { (h : Quiet p c) with wait := rfl }
  | busy f => exact { (h : InFlight f cfg p c r) with wait := .inl rfl }

/-- Of the RTC the sequencer's part of the invariant reads only `RTC_SRC`. -/
theorem SeqOk.setRtc {q : Seq} {cfg : Params} {p : Pwr} {c : Clk} {r r' : Rtc} (h : SeqOk q cfg p c r)
    (hr : r'.src = r.src) : SeqOk q cfg p c r' := by
  cases q with
  | idle => exact h
  | busy f =>
    have hf : InFlight f cfg p c r := h
    exact { hf with rtc := by simpa only [rtcReady, hr] using hf.rtc }

theorem inv_evTick {s : State} (h : Inv s) : Inv (evTick s) := by
  obtain ⟨-, -, he⟩ | he := evTick_cases s
  · rw [he]; exact { h with }
  · rw [he]; exact h

/-- A source that oscillates is one that was set. -/
theorem src_of_rtcRunning {s : State} (h : rtcRunning s = true) : s.rtc.src ≠ .none := by
  intro hs
  rw [rtcRunning, hs] at h
  cases h

theorem inv_evRtcMs {s : State} (h : Inv s) : Inv (evRtcMs s) := by
  by_cases hr : rtcRunning s = true
  · rw [evRtcMs_of_running hr]
    have hs : (rtcTick s.rtc).src ≠ .none := by rw [rtcTick_src]; exact src_of_rtcRunning hr
    exact { h with
      rtcBits := rtcBitsOk_of_src hs
      seq := h.seq.setRtc (rtcTick_src _) }
  · rw [evRtcMs_of_stopped hr]; exact h

theorem inv_evRegRdy {s : State} (h : Inv s) : Inv (evRegRdy s) := by
  rw [evRegRdy_eq]
  split
  · exact { h with seq := h.seq.clearReglpf }
  · exact h

theorem inv_evClkRdy {s : State} (h : Inv s) : Inv (evClkRdy s) := by
  unfold evClkRdy
  split
  · exact { h with seq := h.seq.clearWait }
  · exact h

theorem inv_evWkup (p : Fin 3) {s : State} (h : Inv s) : Inv (evWkup p s) := by
  rw [evWkup_eq]
  split
  · exact { h with seq := h.seq.setWuf true }
  · exact h

theorem inv_evExtIrq {s : State} (h : Inv s) : Inv (evExtIrq s) := by
  unfold evExtIrq
  split
  case isTrue => exact h
  case isFalse hi => exact { h with seq := h.seq.setExtpend hi }

/-! ### The resets -/

theorem quiet_reset (d : Draw) : Quiet (Pwr.reset d) Clk.reset := by
  constructor <;> rfl

/-- The rings of a reset: empty, one per instance. -/
theorem ringsOk_powerOn (p : Params) (d : Draw) (hp : p.Legal) : ringsOk (State.powerOn p d) = true := by
  obtain ⟨⟨hcap, -⟩, -, -⟩ := hp
  have hpos : 0 < p.cap := Nat.lt_of_lt_of_le Nat.two_pos hcap
  have hr : Ring.reset.ok p.cap = true := (Ring.ok_iff _ _).mpr ⟨hpos, hpos, rfl, rfl⟩
  exact Bool.and_eq_true_iff.mpr ⟨decide_eq_true List.length_replicate,
    List.all_eq_true.mpr fun r hm => by rw [List.eq_of_mem_replicate hm]; exact hr⟩

theorem clkIdsOk_powerOn (p : Params) (d : Draw) : clkIdsOk (State.powerOn p d) = true :=
  (clkIdsOk_iff _).mpr ⟨.inr (.inr rfl), .inr rfl, .inr rfl⟩

/-- The start of a run, with any parameters that are legal and any draw. -/
theorem inv_powerOn {p : Params} (hp : p.Legal) (d : Draw) : Inv (State.powerOn p d) where
  cfg := hp
  rings := ringsOk_powerOn p d hp
  clkIds := clkIdsOk_powerOn p d
  rtcBits := rfl
  seq := quiet_reset d

theorem inv_powerOnReset {s : State} (h : s.cfg.Legal) : Inv (powerOnReset s) :=
  { inv_powerOn h (freeDraw s.draws) with }

/-- The comparator bits after StandbyExitReset are 0 while `RTC_SRC = 0` (C7). -/
theorem rtcBitsOk_standbyExit (s : State) : rtcBitsOk (standbyExit s) = true := by
  by_cases h : s.rtc.src = .none
  · simp [rtcBitsOk, standbyExit, rtcAfterStandby, comparatorBits, h]
  · exact rtcBitsOk_of_src h

theorem inv_standbyExit {s : State} (h : s.cfg.Legal) : Inv (standbyExit s) :=
  { inv_powerOn h (freeDraw s.draws) with
    rtcBits := rtcBitsOk_standbyExit s
    seq := { quiet_reset (freeDraw s.draws) with } }

/-! ### Every step -/

/-- A served `RB_INSERT` writes a ring alone. -/
theorem inv_insertByte {s : State} (h : Inv s) {i : Nat} (hi : i < s.cfg.nRb) (b : Byte) : Inv (insertByte i b s) := by
  have hr := ringsOk_insertByte h.cfg h.rings hi b
  obtain ⟨-, he⟩ | ⟨-, he⟩ := insertByte_cases i b s
  · rw [he]; exact h
  · rw [he (ring_exists h.rings hi)] at hr ⊢
    exact { h with rings := hr }

/-- What is in flight and what holds of it. -/
theorem Inv.inFlight {s : State} (h : Inv s) {f : Flight} (hs : s.seq = .busy f) :
    InFlight f s.cfg s.pwr s.clk s.rtc := by
  have hq := h.seq
  rw [hs] at hq
  exact hq

theorem Inv.quiet {s : State} (h : Inv s) (hs : s.seq = .idle) : Quiet s.pwr s.clk := by
  have hq := h.seq
  rw [hs] at hq
  exact hq

theorem inv_dropMove {s : State} (h : Inv s) : Inv (dropMove s) := { h with }

/-- Settles O58: by the kind of the step; a command accepted first meets the invariant at its first step. -/
theorem everyStepKeepsTheInvariant : Obligations.EveryStepKeepsTheInvariant := by
  intro s t h hstep
  have hd := inv_dropMove h
  cases stepTo_of_step hstep with
  | faults => exact { h with }
  | nothing | noExit => exact hd
  | illegalC w rest _ hs => exact { h with seq := h.quiet hs }
  | accepts ins w rest _ _ hs _ hp hw _ ht =>
    have ha : Inv (accepted ins { dropMove s with cmdC := rest }) := inv_accepted { h with } hs hp hw
    exact (flightStep_of_exec rfl hp ht).inv rfl ha
  | flight f _ _ hs ht => exact (flightStep_of_exec (s := dropMove s) hs (h.inFlight hs).port ht).inv hs hd
  | illegalP => exact { h with }
  | inserts i b w rest _ _ _ _ hr =>
    have hu : Inv { dropMove s with cmdP := rest } := { h with }
    exact { inv_insertByte hu hr b with }
  | evTick => exact inv_evTick hd
  | evRtcMs => exact inv_evRtcMs hd
  | evRegRdy => exact inv_evRegRdy hd
  | evClkRdy => exact inv_evClkRdy hd
  | evWkup p => exact inv_evWkup p hd
  | evExtIrq => exact inv_evExtIrq hd
  | powerOnReset => exact inv_powerOnReset h.cfg
  | standbyExit => exact inv_standbyExit h.cfg

/-- Settles O57: the reset state is the start of a run with the default parameters. -/
theorem resetMeetsTheInvariant : Obligations.ResetMeetsTheInvariant :=
  inv_powerOn (p := .default) (by decide) _

end Sys2Proof.Machine
end

section
/-! PROOFS. What one step can write and at which step of which command: faults and refusals, rings, the RTC interrupt, the
recorded clock, `IntCtx` and `PSTATE`. -/

namespace Sys2Proof.Machine

/-! ### The first step of a command just accepted -/

theorem flightStep_of_accepted {s t : State} {ins : Instr} (hp : ins.port = .C)
    (h : exec ins (accepted ins s) = .next t) :
    FlightStep (accepted ins s) (Flight.start ins (firstStep ins)) t :=
  flightStep_of_exec (f := Flight.start ins (firstStep ins)) rfl hp h

theorem flightFault_of_accepted {s : State} {ins : Instr} {r : Fault} (hp : ins.port = .C)
    (h : exec ins (accepted ins s) = .fault r) :
    FlightFault (accepted ins s) (Flight.start ins (firstStep ins)) r :=
  flightFault_of_exec (f := Flight.start ins (firstStep ins)) rfl hp h

/-! ### What every other step leaves alone -/

/-- The step `s` to `t` is neither a step of a command on port C nor a reset: what it keeps, and what port P may do. -/
structure Bystander (s t : State) : Prop where
  cfg : t.cfg = s.cfg
  seq : t.seq = s.seq
  acc : t.acc = s.acc
  faulted : t.faulted = s.faulted ∨ ∃ r, agentTurn (nextMove s) (dropMove s) = .fault r
  sched : t.sched = s.sched ∨ t.sched = s.sched.tail
  /-- Port C answers a reserved word only when it is idle. -/
  portC : s.cmdC = [] ∨ s.seq ≠ .idle → t.cmdC = s.cmdC ∧ t.rspC = s.rspC
  gie : t.pwr.gie = s.pwr.gie
  tickie : t.pwr.tickie = s.pwr.tickie
  pstate : t.pwr.pstate = s.pwr.pstate
  lpreg : t.pwr.lpreg = s.pwr.lpreg
  reglpf : s.pwr.reglpf = false → t.pwr.reglpf = false
  clk : t.clk = s.clk ∨ t.clk = { s.clk with wait := .none }
  rtc : t.rtc = s.rtc ∨ t.rtc = rtcTick s.rtc
  tick : intCtx s.pwr = false → t.tick = s.tick
  /-- Port P serves no word, or an `RB_INSERT` in range, or a reserved one. -/
  served : t.cmdP = s.cmdP ∧ t.rings = s.rings ∨ intCtx s.pwr = true ∧ ∃ w, s.cmdP = w :: t.cmdP ∧
    ((∃ i b, decode w = .ok (.rbInsert i b) ∧ i.toNat < s.cfg.nRb ∧ servedP s = some (.rbInsert i b) ∧
        t.rings = (insertByte i.toNat b s).rings) ∨
      ((∀ i b, decode w = .ok (.rbInsert i b) → ¬ i.toNat < s.cfg.nRb) ∧ t.rings = s.rings))

/-- Every step is one of these. -/
inductive StepKind (s t : State) : Prop
  | flight (f : Flight) (hm : nextMove s = .portC) (hs : s.seq = .busy f) (h : exec f.ins (dropMove s) = .next t)
  | accepts (ins : Instr) (w : Cmd) (rest : List Cmd) (hs : s.seq = .idle) (hc : s.cmdC = w :: rest)
      (hp : ins.port = .C) (hw : ins.wellFormed s.cfg = true) (ha : acceptedC s = some ins)
      (h : exec ins (accepted ins { dropMove s with cmdC := rest }) = .next t)
  | powerOnReset (hm : nextMove s = .powerOnReset) (ht : t = powerOnReset (dropMove s))
  | standbyExit (hm : nextMove s = .standbyExitReset) (he : standbyExitEnabled s = true)
      (ht : t = standbyExit (dropMove s))
  | other (hb : Bystander s t)

/-- A step that leaves all but the schedule, a script of port C or the record of a fault. -/
theorem bystander_dropMove (s : State) : Bystander s (dropMove s) where
  cfg := rfl
  seq := rfl
  acc := rfl
  faulted := .inl rfl
  sched := .inr rfl
  portC _ := ⟨rfl, rfl⟩
  gie := rfl
  tickie := rfl
  pstate := rfl
  lpreg := rfl
  reglpf := id
  clk := .inl rfl
  rtc := .inl rfl
  tick _ := rfl
  served := .inl ⟨rfl, rfl⟩

theorem insertByte_rings (i : Nat) (b : Byte) (s : State) :
    (insertByte i b s).rings =
      if advance s.cfg.cap (ringAt i s).head ≠ (ringAt i s).tail then
        (setHead i (advance s.cfg.cap (ringAt i s).head) (bufWrite i (ringAt i s).head b s)).rings
      else s.rings :=
  apply_ite State.rings _ _ _

/-- The store of `RB_INSERT` reads and writes the rings alone. -/
theorem insertByte_rings_congr {s u : State} (hr : u.rings = s.rings) (hc : u.cfg = s.cfg) (i : Nat) (b : Byte) :
    (insertByte i b u).rings = (insertByte i b s).rings := by
  rw [insertByte_rings, insertByte_rings]
  cases u; cases s; cases hr; cases hc
  rfl

theorem insertByte_eq (i : Nat) (b : Byte) (s : State) :
    insertByte i b s = { s with rings := (insertByte i b s).rings } := by
  unfold insertByte
  dsimp only
  split <;> rfl

/-- A step of port P (R131), with what it serves. -/
theorem bystander_inserts {s : State} {i b : Byte} {w : Cmd} {rest : List Cmd} (hi : intCtx s.pwr = true)
    (hc : s.cmdP = w :: rest) (hd : decode w = .ok (.rbInsert i b)) (hr : i.toNat < s.cfg.nRb)
    (ha : servedP s = some (.rbInsert i b)) :
    Bystander s (respondP .ok 0#32 (insertByte i.toNat b { dropMove s with cmdP := rest })) := by
  rw [insertByte_eq]
  exact { bystander_dropMove s with
    served := .inr ⟨hi, w, hc, .inl ⟨i, b, hd, hr, ha, insertByte_rings_congr (s := s)
      (u := { dropMove s with cmdP := rest }) rfl rfl i.toNat b⟩⟩ }

theorem bystander_evTick (s : State) : Bystander s (evTick (dropMove s)) := by
  obtain ⟨hi, -, he⟩ | he := evTick_cases (dropMove s) <;> rw [he]
  · exact { bystander_dropMove s with tick := fun hn => absurd (hn.symm.trans hi) Bool.false_ne_true }
  · exact bystander_dropMove s

theorem bystander_evRtcMs (s : State) : Bystander s (evRtcMs (dropMove s)) := by
  unfold evRtcMs
  split
  · exact { bystander_dropMove s with rtc := .inr rfl }
  · exact bystander_dropMove s

theorem bystander_evRegRdy (s : State) : Bystander s (evRegRdy (dropMove s)) := by
  rw [evRegRdy_eq]
  split
  · exact { bystander_dropMove s with reglpf := fun _ => rfl }
  · exact bystander_dropMove s

theorem bystander_evClkRdy (s : State) : Bystander s (evClkRdy (dropMove s)) := by
  unfold evClkRdy
  split
  · exact { bystander_dropMove s with clk := .inr rfl }
  · exact bystander_dropMove s

theorem bystander_evWkup (p : Fin 3) (s : State) : Bystander s (evWkup p (dropMove s)) := by
  rw [evWkup_eq]
  split
  · exact { bystander_dropMove s with }
  · exact bystander_dropMove s

theorem bystander_evExtIrq (s : State) : Bystander s (evExtIrq (dropMove s)) := by
  rw [evExtIrq_eq]
  split
  · exact bystander_dropMove s
  · exact { bystander_dropMove s with }

theorem stepKind_of_step {s t : State} (h : step s = .next t) : StepKind s t := by
  cases stepTo_of_step h with
  | flight f _ hm hs ht => exact .flight f hm hs ht
  | accepts ins w rest _ _ hs hc hp hw ha ht => exact .accepts ins w rest hs hc hp hw ha ht
  | powerOnReset hm => exact .powerOnReset hm rfl
  | standbyExit hm he => exact .standbyExit hm he rfl
  | faults r hr => exact .other { bystander_dropMove s with faulted := .inr ⟨r, hr⟩, sched := .inl rfl }
  | nothing | noExit => exact .other (bystander_dropMove s)
  | illegalC w rest _ hs hc =>
    refine .other { bystander_dropMove s with seq := hs.symm, portC := fun hn => ?_ }
    rw [hc] at hn
    exact hn.elim nofun fun hne => absurd hs hne
  | illegalP w rest _ hi hc hw => exact .other { bystander_dropMove s with served := .inr ⟨hi, w, hc, .inr ⟨hw, rfl⟩⟩ }
  | inserts i b w rest _ hi hc hd hr ha => exact .other (bystander_inserts hi hc hd hr ha)
  | evTick => exact .other (bystander_evTick s)
  | evRtcMs => exact .other (bystander_evRtcMs s)
  | evRegRdy => exact .other (bystander_evRegRdy s)
  | evClkRdy => exact .other (bystander_evClkRdy s)
  | evWkup p => exact .other (bystander_evWkup p s)
  | evExtIrq => exact .other (bystander_evExtIrq s)

theorem Bystander.intCtx_eq {s t : State} (h : Bystander s t) : intCtx t.pwr = intCtx s.pwr := by
  rw [intCtx, h.gie, h.pstate, intCtx]

theorem Bystander.current_eq {s t : State} (h : Bystander s t) : t.clk.current = s.clk.current := by
  obtain he | he := h.clk <;> rw [he]

/-! ### Faults and refusals -/

/-- `CLK_SELECT` of a legal id never selects `CLK_NONE`. -/
theorem ne_clkSelect_none {p : Params} (hp : p.Legal) {ins : Instr} (hw : ins.wellFormed p = true) :
    ins ≠ .clkSelect clkNone := by
  rintro rfl
  exact ne_clkNone_of_lt hp (of_decide_eq_true hw) rfl

/-- The commands whose first step is an arm step. -/
theorem arm_firstStep {ins : Instr} (h : armStep ins (firstStep ins) = true) :
    ∃ d, ins = .rtcArmSec d ∨ ins = .rtcArmMs d := by
  cases ins <;> cases h
  · exact ⟨_, .inl rfl⟩
  · exact ⟨_, .inr rfl⟩

/-- A command faults when it is accepted only if that is its arm step. -/
theorem accepted_fault {s : State} {ins : Instr} {r : Fault} (hc : s.cfg.Legal) (hs : s.seq = .idle)
    (h : exec ins s = .fault r) :
    r = .rtcNotInitialised ∧ s.rtc.src = .none ∧ ∃ d, ins = .rtcArmSec d ∨ ins = .rtcArmMs d := by
  cases hp : ins.port with
  | P =>
    obtain ⟨i, b, rfl⟩ := eq_rbInsert_of_port hp
    simp only [exec, execRbInsert] at h
    split at h
    · split at h <;> cases h
    · cases h
  | C =>
    rw [exec_idle hp hs] at h
    split at h
    case isFalse => cases h
    case isTrue hw =>
      obtain ⟨hr, ha, hn⟩ | ⟨-, -, hst, -⟩ | hi := flightFault_of_accepted hp h
      · exact ⟨hr, hn, arm_firstStep ha⟩
      · have hpl := plain_firstStep ins
        rw [show firstStep ins = .W4 .k1 from hst] at hpl
        cases hpl
      · exact absurd hi (ne_clkSelect_none hc hw)

/-- Settles O29: the arm steps and the first step of the replay fault as R213 and R242 say, and by the step of the command
in flight nothing else does. -/
theorem faultsAreTheTwoOfTheList : Obligations.FaultsAreTheTwoOfTheList := by
  refine ⟨fun s h v n c hn => ⟨fun hs d => ⟨?acceptSec, ?acceptMs⟩, fun d => ⟨?S1, ?T1⟩, fun ins ht => ?timed,
    fun d => ?B4⟩, fun s h v n c ins hw hc => ?replay, fun s ins r hi hs hx => ?exact⟩
  case acceptSec =>
    rw [exec_accept rfl hs rfl, accepted_eq]
    simp only [exec, execRtcArmSec, onPortC_atStep, firstStep, arm_atStep_fault (s := { s with rspC := none }) hn]
    rfl
  case acceptMs =>
    rw [exec_accept rfl hs rfl, accepted_eq]
    simp only [exec, execRtcArmMs, onPortC_atStep, firstStep, arm_atStep_fault (s := { s with rspC := none }) hn]
    rfl
  case S1 => simp only [exec, execRtcArmSec, onPortC_atStep, arm_atStep_fault hn, Act.andThen]
  case T1 => simp only [exec, execRtcArmMs, onPortC_atStep, arm_atStep_fault hn, Act.andThen]
  case timed =>
    obtain ⟨⟨lp, deep, u, d⟩, ht⟩ := Option.isSome_iff_exists.mp ht
    simp only [exec_timed ht, timedStep, arm_atStep_fault hn, Act.andThen, and_self]
  case B4 => simp only [exec_standby (ins := .pmStandbySec d) rfl, standbyStep, standbyB4, arm_atStep_fault hn, Act.andThen]
  case replay =>
    simp only [exec_wakes hw (st := .W4 .k1) rfl, wakeStep, replayed, if_true, atStep_clk, hc, clockStep, Act.andThen]
  case exact =>
    obtain hs | ⟨f, hs, rfl⟩ := hs
    · obtain ⟨hr, hn, hd⟩ := accepted_fault hi.cfg hs hx
      exact .inl ⟨hr, hn, .inl ⟨hs, hd⟩⟩
    · have hf := hi.inFlight hs
      obtain ⟨hr, ha, hn⟩ | ⟨hr, hw, hst, hc⟩ | hsel := flightFault_of_exec hs hf.port hx
      · exact .inl ⟨hr, hn, .inr ⟨f, hs, rfl, ha⟩⟩
      · exact .inr ⟨hr, hc, hw, f, hs, rfl, hst⟩
      · exact absurd hsel (ne_clkSelect_none hi.cfg hf.operands)

/-- An agent's turn that is not refused is a step. -/
theorem step_of_not_refused {s : State} (h : s.faulted = none)
    (hr : ∀ r, agentTurn (nextMove s) (dropMove s) ≠ .refused r) : ∃ t, step s = .next t := by
  rw [step_eq h]
  cases ha : agentTurn (nextMove s) (dropMove s) with
  | next t => exact ⟨t, rfl⟩
  | fault r => exact ⟨_, rfl⟩
  | refused r => exact absurd ha (hr r)

/-- The command in flight is never refused: it has its next step. -/
theorem flight_not_refused {s : State} {f : Flight} (hs : s.seq = .busy f) (hp : f.ins.port = .C)
    (hstep : hasStep f.ins f.step = true) (r : Refusal) : exec f.ins s ≠ .refused r := by
  intro h
  have ho := exec_flight hs hp
  rw [h] at ho
  exact absurd (hstep.symm.trans ho) (by decide)

/-- A command presented on an idle port C is never refused. -/
theorem accepted_not_refused {s : State} {ins : Instr} (hs : s.seq = .idle) (hp : ins.port = .C) (r : Refusal) :
    exec ins s ≠ .refused r := by
  rw [exec_idle hp hs]
  split
  · exact flight_not_refused (f := Flight.start ins (firstStep ins)) (s := accepted ins s) rfl hp (hasStep_firstStep hp) r
  · exact nofun

/-- Settles O59: by the agent that moves and what stands on its port. -/
theorem onlyWrongPortWordsAreRefused : Obligations.OnlyWrongPortWordsAreRefused := by
  intro s hi hf
  by_cases href : ∃ r, agentTurn (nextMove s) (dropMove s) = .refused r
  case neg => exact .inl (step_of_not_refused hf (not_exists.mp href))
  obtain ⟨r, href⟩ := href
  generalize hm : nextMove s = m at href
  right
  cases m with
  | portC =>
    left
    rw [agentTurn] at href
    obtain ⟨f, hs, he⟩ | ⟨-, -, he⟩ | ⟨w, rest, hs, hc, he⟩ := portCTurn_cases (dropMove s) <;> rw [he] at href
    · have hfl := hi.inFlight hs
      exact absurd href (flight_not_refused hs hfl.port hfl.step r)
    · cases href
    · obtain hx | ⟨ho, -⟩ | ⟨ins, -, hp, hx⟩ := acceptC_cases w { dropMove s with cmdC := rest }
      · rw [hx] at href; cases href
      · exact ⟨w, rest, rfl, hs, hc, ho⟩
      · rw [hx] at href
        exact absurd href (accepted_not_refused (s := { dropMove s with cmdC := rest }) hs hp r)
  | portP =>
    right
    rw [agentTurn] at href
    obtain ⟨-, he⟩ | ⟨w, rest, hc, hint, he⟩ := portPTurn_cases (dropMove s) <;> rw [he] at href
    · cases href
    · obtain ⟨ho, -⟩ | ⟨-, hx⟩ | ⟨i, b, -, hx⟩ := acceptP_cases w { dropMove s with cmdP := rest }
      · exact ⟨w, rest, rfl, hint, hc, ho⟩
      · rw [hx] at href; cases href
      · rw [hx] at href
        by_cases hr : i.toNat < s.cfg.nRb
        · rw [exec_rbInsert (s := { dropMove s with cmdP := rest }) hint hr] at href; cases href
        · rw [exec_rbInsert_illegal (s := { dropMove s with cmdP := rest }) hint hr] at href; cases href
  | evTick | evRtcMs | evRegRdy | evClkRdy | evWkup | evExtIrq | powerOnReset | standbyExitReset => cases href

/-! ### Who writes a ring -/

theorem stepTaken_eq {s : State} {f : Flight} (hm : nextMove s = .portC) (hs : s.seq = .busy f) :
    stepTaken s = some (f.ins, f.step) := by
  simp only [stepTaken, hm, hs]

theorem ringAt_dropOldest_same {s : State} {i : Nat} (hi : i < s.rings.length) :
    ringAt i (dropOldest i s) = { ringAt i s with tail := advance s.cfg.cap (ringAt i s).tail } :=
  ringAt_setRing_same i _ s hi

theorem dropOldest_head {s : State} {i : Nat} (hi : i < s.rings.length) :
    (ringAt i (dropOldest i s)).head = (ringAt i s).head := by
  rw [ringAt_dropOldest_same hi]

theorem dropOldest_buf {s : State} {i : Nat} (hi : i < s.rings.length) :
    (ringAt i (dropOldest i s)).buf = (ringAt i s).buf := by
  rw [ringAt_dropOldest_same hi]

theorem ringAt_dropOldest_other {s : State} {i j : Nat} (h : j ≠ i) : ringAt j (dropOldest i s) = ringAt j s :=
  ringAt_setRing_other i j _ s h

theorem ringAt_insertByte_other {s : State} {i j : Nat} (hi : i < s.rings.length) (h : j ≠ i) (b : Byte) :
    ringAt j (insertByte i b s) = ringAt j s := by
  obtain ⟨-, he⟩ | ⟨-, he⟩ := insertByte_cases i b s
  · rw [he]
  · rw [he hi, ringAt_setRing_other i j _ s h]

theorem insertByte_tail {s : State} {i : Nat} (hi : i < s.rings.length) (b : Byte) :
    (ringAt i (insertByte i b s)).tail = (ringAt i s).tail := by
  obtain ⟨-, he⟩ | ⟨-, he⟩ := insertByte_cases i b s
  · rw [he]
  · rw [he hi, ringAt_setRing_same i _ s hi]

/-- The step of the consumer of instance `j` that moves its `TAIL` on: D4 of `RB_READ` or U3 of `RB_RDUNTIL`. -/
def consumes (j : Nat) (ins : Instr) (st : StepName) : Prop :=
  (∃ i, i.toNat = j ∧ ins = .rbRead i ∧ st = .D4) ∨ ∃ i b, i.toNat = j ∧ ins = .rbRdUntil i b ∧ st = .U3

/-- A ring after a step of the command in flight: as it was, emptied by its `RB_INIT`, or with only `TAIL` moved by its
consumer. -/
theorem FlightStep.ringAt_cases {s t : State} {f : Flight} (hst : FlightStep s f t) (hr : ringsOk s = true)
    (hw : f.ins.wellFormed s.cfg = true) (j : Nat) :
    ringAt j t = ringAt j s ∨ (∃ i, i.toNat = j ∧ f.ins = .rbInit i ∧ f.step = .Z1) ∨
      ((ringAt j t).head = (ringAt j s).head ∧ (ringAt j t).buf = (ringAt j s).buf ∧ consumes j f.ins f.step) := by
  cases hst with
  | D4 i =>
    by_cases hj : j = i.toNat
    case neg => exact .inl (ringAt_dropOldest_other hj)
    case pos =>
      subst hj
      have hlen := ring_exists hr (of_decide_eq_true hw)
      exact .inr (.inr ⟨dropOldest_head hlen, dropOldest_buf hlen, .inl ⟨i, rfl, rfl, rfl⟩⟩)
  | U3 i b =>
    by_cases hj : j = i.toNat
    case neg => exact .inl (ringAt_dropOldest_other hj)
    case pos =>
      subst hj
      have hlen := ring_exists hr (of_decide_eq_true hw)
      exact .inr (.inr ⟨dropOldest_head hlen, dropOldest_buf hlen, .inr ⟨i, b, rfl, rfl, rfl⟩⟩)
  | Z1 i =>
    by_cases hj : j = i.toNat
    case neg => exact .inl (ringAt_setRing_other _ _ _ s hj)
    case pos => exact .inr (.inl ⟨i, hj.symm, rfl, rfl⟩)
  | _ => exact .inl rfl

theorem ringAt_congr {s t : State} (h : t.rings = s.rings) (j : Nat) : ringAt j t = ringAt j s := by
  rw [ringAt, h, ringAt]

/-- A ring after any step: as it was, reset, written by a served `RB_INSERT` that keeps `TAIL`, emptied by `RB_INIT`, or
with only `TAIL` moved by its consumer. -/
theorem ringAt_step_cases {s t : State} (hi : Inv s) (hstep : step s = .next t) (j : Nat) :
    ringAt j t = ringAt j s ∨ (nextMove s = .powerOnReset ∨ nextMove s = .standbyExitReset) ∨
      ((∃ i b, i.toNat = j ∧ servedP s = some (.rbInsert i b)) ∧ (ringAt j t).tail = (ringAt j s).tail) ∨
      (∃ i, i.toNat = j ∧ (acceptedC s = some (.rbInit i) ∨ stepTaken s = some (.rbInit i, .Z1))) ∨
      ((ringAt j t).head = (ringAt j s).head ∧ (ringAt j t).buf = (ringAt j s).buf ∧
        ∃ ins st, stepTaken s = some (ins, st) ∧ consumes j ins st) := by
  cases stepKind_of_step hstep with
  | powerOnReset hm => exact .inr (.inl (.inl hm))
  | standbyExit hm => exact .inr (.inl (.inr hm))
  | other hb =>
    obtain ⟨-, hr⟩ | ⟨-, w, -, ⟨i, b, -, hrange, ha, hr⟩ | ⟨-, hr⟩⟩ := hb.served
    · exact .inl (ringAt_congr hr j)
    · have hlen := ring_exists hi.rings hrange
      rw [ringAt_congr hr j]
      by_cases hj : j = i.toNat
      case neg => exact .inl (ringAt_insertByte_other hlen hj b)
      case pos => exact .inr (.inr (.inl ⟨⟨i, b, hj.symm, ha⟩, by subst hj; exact insertByte_tail hlen b⟩))
    · exact .inl (ringAt_congr hr j)
  | flight f hm hs ht =>
    have hf := hi.inFlight hs
    have hst : FlightStep (dropMove s) f t := flightStep_of_exec hs hf.port ht
    obtain he | ⟨i, hj, hins, hz⟩ | ⟨hh, hb, hc⟩ := hst.ringAt_cases hi.rings hf.operands j
    · exact .inl he
    · exact .inr (.inr (.inr (.inl ⟨i, hj, .inr (by rw [stepTaken_eq hm hs, hins, hz])⟩)))
    · exact .inr (.inr (.inr (.inr ⟨hh, hb, _, _, stepTaken_eq hm hs, hc⟩)))
  | accepts ins w rest _ _ hp hw ha ht =>
    have hst := flightStep_of_accepted hp ht
    obtain he | ⟨i, hj, hins, -⟩ | ⟨-, -, hc⟩ := hst.ringAt_cases hi.rings hw j
    · exact .inl he
    · exact .inr (.inr (.inr (.inl ⟨i, hj, .inl (by rw [ha]; exact congrArg some hins)⟩)))
    · obtain ⟨i, -, rfl, hd⟩ | ⟨i, b, -, rfl, hd⟩ : consumes j ins (firstStep ins) := hc <;> cases hd

/-- Settles O25: from what a step makes of one ring. -/
theorem ringWritersAreTheOwners : Obligations.RingWritersAreTheOwners := by
  intro s t j hi hstep
  obtain he | hreset | ⟨hins, ht⟩ | hinit | ⟨hh, hb, ins, st, hst, hc⟩ := ringAt_step_cases hi hstep j
  · rw [he]
    exact ⟨fun hne => absurd hne (by simp), fun hne => absurd rfl hne⟩
  · exact ⟨fun _ => .inr (.inr hreset), fun _ => .inr (.inr (.inr hreset))⟩
  · exact ⟨fun _ => .inl hins, fun hne => absurd ht hne⟩
  · exact ⟨fun _ => .inr (.inl hinit), fun _ => .inr (.inr (.inl hinit))⟩
  · refine ⟨fun hne => absurd hne (by simp [hh, hb]), fun _ => ?_⟩
    obtain ⟨i, hj, rfl, rfl⟩ | ⟨i, b, hj, rfl, rfl⟩ := hc
    · exact .inl ⟨i, hj, hst⟩
    · exact .inr (.inl ⟨i, b, hj, hst⟩)

end Sys2Proof.Machine
end

section
/-! PROOFS. The fields with few writers: the RTC interrupt (R33), the recorded clock (R247), `IntCtx` (R34), `PSTATE` (R160),
and what the masked steps of a power sequence leave alone (R74). -/

namespace Sys2Proof.Machine

/-! ### The RTC interrupt -/

theorem rtcIrq_eq_true_iff (r : Rtc) :
    rtcIrq r = true ↔ (r.alrF = true ∧ r.alrIe = true) ∨ (r.wutF = true ∧ r.wutIe = true) := by
  rw [rtcIrq, Bool.or_eq_true, Bool.and_eq_true, Bool.and_eq_true]

/-- A millisecond sets flags and clears none. -/
theorem rtcIrq_rtcTick {r : Rtc} (h : rtcIrq r = true) : rtcIrq (rtcTick r) = true := by
  rw [rtcIrq_eq_true_iff] at h ⊢
  rw [rtcTick_alrF, rtcTick_wutF, rtcTick_alrIe, rtcTick_wutIe]
  obtain ⟨hf, he⟩ | ⟨hf, he⟩ := h
  · exact .inl ⟨by rw [hf]; rfl, he⟩
  · exact .inr ⟨by rw [hf]; rfl, he⟩

/-- Of the steps of the command in flight only an arm step clears a flag or disables it. -/
theorem FlightStep.rtcIrq_falls {s t : State} {f : Flight} (hst : FlightStep s f t) (h : rtcIrq s.rtc = true)
    (h' : rtcIrq t.rtc = false) : armStep f.ins f.step = true := by
  cases hst with
  | S1 | T1 | B4sec => rfl
  | E4 ht | W7 ht => exact Option.isSome_iff_exists.mpr ⟨_, ht⟩
  | _ => exact absurd (h.symm.trans h') (by decide)

/-- `RB_INSERT` touches nothing of the RTC, on whatever port it stands. -/
theorem exec_rbInsert_rtc {i b : Byte} {s t : State} (h : exec (.rbInsert i b) s = .next t) : t.rtc = s.rtc := by
  simp only [exec, execRbInsert] at h
  split at h
  · split at h <;> cases h
    · unfold insertByte; dsimp only [respondP_rtc]; split <;> rfl
    · rfl
  · cases h; rfl

/-- Settles O33: the level property by the agent that moves; it needs no invariant. -/
theorem rtcIrqIsALevel : Obligations.RtcIrqIsALevel := by
  refine ⟨rtcIrq_eq_true_iff, fun s t hstep h h' => ?_⟩
  cases stepKind_of_step hstep with
  | other hb =>
    obtain he | he := hb.rtc <;> rw [he] at h'
    · exact absurd (h.symm.trans h') (by decide)
    · exact absurd ((rtcIrq_rtcTick h).symm.trans h') (by decide)
  | powerOnReset hm => exact .inr (.inr (.inl hm))
  | standbyExit hm => exact .inr (.inr (.inr hm))
  | accepts ins w rest _ _ hp _ ha ht =>
    obtain ⟨d, rfl | rfl⟩ := arm_firstStep ((flightStep_of_accepted hp ht).rtcIrq_falls h h')
    · exact .inl ⟨d, .inl ha⟩
    · exact .inl ⟨d, .inr ha⟩
  | flight f hm hs ht =>
    cases hp : f.ins.port with
    | P =>
      obtain ⟨i, b, hins⟩ := eq_rbInsert_of_port hp
      rw [hins] at ht
      rw [exec_rbInsert_rtc ht] at h'
      exact absurd (h.symm.trans h') (by decide)
    | C =>
      have hst : FlightStep (dropMove s) f t := flightStep_of_exec hs hp ht
      exact .inr (.inl ⟨f.ins, f.step, stepTaken_eq hm hs, hst.rtcIrq_falls h h'⟩)

/-! ### The recorded clock -/

/-- K6 of `CLK_SELECT` records its operand; the replay writes the recorded id back. -/
theorem FlightStep.current_changes {s t : State} {f : Flight} (hst : FlightStep s f t)
    (hf : InFlight f s.cfg s.pwr s.clk s.rtc) (h : t.clk.current ≠ s.clk.current) :
    ∃ x, f.ins = .clkSelect x ∧ f.step = .K .k6 ∧ t.clk.current = x := by
  cases hst with
  | K6 x => exact ⟨x, rfl, rfl, rfl⟩
  | W4k6 =>
    obtain ⟨-, hx, -⟩ := replayOk_k6.mp hf.replay
    exact absurd hx h
  | _ => exact absurd rfl h

/-- Settles O37. -/
theorem onlyClockSelectChangesTheRecord : Obligations.OnlyClockSelectChangesTheRecord := by
  intro s t hi hstep h
  cases stepKind_of_step hstep with
  | other hb => exact absurd hb.current_eq h
  | powerOnReset hm ht => exact .inr ⟨.inl hm, by rw [ht]; rfl⟩
  | standbyExit hm _ ht => exact .inr ⟨.inr hm, by rw [ht]; rfl⟩
  | flight f hm hs ht =>
    have hf := hi.inFlight hs
    have hst : FlightStep (dropMove s) f t := flightStep_of_exec hs hf.port ht
    obtain ⟨x, hins, hk, hx⟩ := hst.current_changes hf h
    exact .inl ⟨x, by rw [stepTaken_eq hm hs, hins, hk], hx⟩
  | accepts ins w rest hs _ hp hw _ ht =>
    have ha : Inv (accepted ins { dropMove s with cmdC := rest }) := inv_accepted { hi with } hs hp hw
    obtain ⟨x, hins, hk, -⟩ := (flightStep_of_accepted hp ht).current_changes (ha.inFlight rfl) h
    rw [show ins = .clkSelect x from hins] at hk
    cases hk

/-! ### `IntCtx` -/

theorem intCtx_eq_false_iff (p : Pwr) : intCtx p = false ↔ p.gie = false ∨ p.pstate ≠ .active := by
  rw [intCtx, Bool.and_eq_false_iff, decide_eq_false_iff_not]

theorem waitState_ne_active (p : Pwr) : waitState p ≠ .active := by
  unfold waitState
  split
  · split <;> decide
  · decide

/-- Of the steps of the command in flight only W5 makes `IntCtx` true. -/
theorem FlightStep.unmasks {s t : State} {f : Flight} (hst : FlightStep s f t)
    (hf : InFlight f s.cfg s.pwr s.clk s.rtc) (h : intCtx s.pwr = false) (h' : intCtx t.pwr = true) :
    f.step = .W5 := by
  obtain ⟨hg', hp'⟩ := (intCtx_eq_true_iff _).mp h'
  cases hst with
  | W5 => rfl
  | E1 | Q1 => exact absurd hg' Bool.false_ne_true
  | E12 | Q6 => exact absurd (hf.gie.symm.trans hg') Bool.false_ne_true
  | E11 | Q5 | B7 => exact absurd hp' (waitState_ne_active _)
  | _ => exact absurd (h.symm.trans h') (by decide)

/-- Port P and EV_TICK have no step while `IntCtx` is false. -/
theorem step_of_masked {s : State} (hf : s.faulted = none) (h : intCtx s.pwr = false)
    (hm : nextMove s = .portP ∨ nextMove s = .evTick) : step s = .next (dropMove s) := by
  obtain hm | hm := hm <;> rw [step_of_move hf hm, agentTurn]
  · cases hc : s.cmdP <;> simp [portPTurn, hc, h, recordFault]
  · rw [evTick_of_not_enabled (s := dropMove s) (.inl h), recordFault]

/-- Settles O43. -/
theorem interruptsAreHeldWhileMasked : Obligations.InterruptsAreHeldWhileMasked := by
  refine ⟨intCtx_eq_true_iff, fun s h => evTick_of_not_enabled h, fun s hf h hm => step_of_masked hf h hm,
    fun s t hi hstep h h' => ?_⟩
  cases stepKind_of_step hstep with
  | other hb =>
    rw [hb.intCtx_eq] at h'
    exact absurd (h.symm.trans h') (by decide)
  | powerOnReset hm => exact .inr (.inl hm)
  | standbyExit hm => exact .inr (.inr hm)
  | flight f hm hs ht =>
    have hf := hi.inFlight hs
    have hst : FlightStep (dropMove s) f t := flightStep_of_exec hs hf.port ht
    exact .inl ⟨f.ins, by rw [stepTaken_eq hm hs, hst.unmasks hf h h']⟩
  | accepts ins w rest hs =>
    have hq := hi.quiet hs
    exact absurd (h.symm.trans ((intCtx_eq_true_iff _).mpr ⟨hq.gie, hq.pstate⟩)) (by decide)

/-! ### `PSTATE` -/

/-- A change of `PSTATE` by the command in flight: the rows of R160 that are steps of commands. -/
inductive PstateStep (s : State) (f : Flight) : PState → Prop
  | sleep (u : TimeUnit) (d : Word) (hs : s.pwr.pstate = .active)
      (hi : f.ins = .pmSleep u d ∨ f.ins = .pmLpSleep u d) (hst : f.step = .E11) : PstateStep s f .sleepWait
  | stop (hs : s.pwr.pstate = .active)
      (hi : (∃ u d, (f.ins = .pmStop u d ∨ f.ins = .pmLpStop u d) ∧ f.step = .E11) ∨
        f.ins = .pmStopIrq ∧ f.step = .Q5) : PstateStep s f .stopWait
  | standby (hs : s.pwr.pstate = .active) (hi : isStandby f.ins = true) (hst : f.step = .B7) :
      PstateStep s f .standbyWait
  | wake (hs : s.pwr.pstate = .sleepWait ∨ s.pwr.pstate = .stopWait)
      (hi : f.step = .E12 ∧ timedWake s = true ∨ f.ins = .pmStopIrq ∧ f.step = .Q6 ∧ s.pwr.extpend = true) :
      PstateStep s f .active

/-- The wait step of a timed command, by the command. -/
theorem pstateStep_E11 {s : State} {ins : Instr} (ht : (timedOf ins).isSome = true) {h : Nat} {v : Byte} {n : Word}
    {c : ClkId} (hf : InFlight ⟨ins, .E11, h, v, n, c⟩ s.cfg s.pwr s.clk s.rtc) :
    PstateStep s ⟨ins, .E11, h, v, n, c⟩ (waitState s.pwr) := by
  rw [waitState_of_deep (beq_iff_eq.mp hf.deep) hf.pdds]
  have hs := hf.pstate
  cases ins <;> cases ht
  case pmSleep.refl u d => exact .sleep u d hs (.inl rfl) rfl
  case pmLpSleep.refl u d => exact .sleep u d hs (.inr rfl) rfl
  case pmStop.refl u d => exact .stop hs (.inl ⟨u, d, .inl rfl, rfl⟩)
  case pmLpStop.refl u d => exact .stop hs (.inl ⟨u, d, .inr rfl, rfl⟩)

/-- In the wait of a timed command `PSTATE` is one of its two waits. -/
theorem pstateAt_E12 (ins : Instr) : pstateAt ins .E12 = .sleepWait ∨ pstateAt ins .E12 = .stopWait := by
  cases h : deepBit ins <;> simp [pstateAt, h]

theorem FlightStep.pstate_cases {s t : State} {f : Flight} (hst : FlightStep s f t)
    (hf : InFlight f s.cfg s.pwr s.clk s.rtc) : t.pwr.pstate = s.pwr.pstate ∨ PstateStep s f t.pwr.pstate := by
  cases hst with
  | E11 ht => exact .inr (pstateStep_E11 ht hf)
  | Q5 =>
    have hw : waitState s.pwr = .stopWait := waitState_of_deep hf.deep hf.pdds
    right
    show PstateStep s _ (waitState s.pwr)
    rw [hw]
    exact .stop hf.pstate (.inr ⟨rfl, rfl⟩)
  | B7 hi =>
    right
    show PstateStep s _ (waitState s.pwr)
    rw [waitState_standby hf.deep hf.pdds]
    exact .standby hf.pstate hi rfl
  | @E12 ins _ _ _ _ _ hw => exact .inr (.wake (hf.pstate ▸ pstateAt_E12 ins) (.inl ⟨rfl, hw⟩))
  | Q6 _ _ _ _ he => exact .inr (.wake (.inr hf.pstate) (.inr ⟨rfl, rfl, he⟩))
  | _ => exact .inl rfl

theorem FlightStep.pstate_of_plain {s t : State} {f : Flight} (hst : FlightStep s f t) (hp : plain f.step = true) :
    t.pwr.pstate = s.pwr.pstate := by
  cases hst with
  | E11 | Q5 | B7 | E12 | Q6 => cases hp
  | _ => rfl

theorem taken_either {o : Option (Instr × StepName)} {ins a b : Instr} {st : StepName} (h : o = some (ins, st))
    (hi : ins = a ∨ ins = b) : o = some (a, st) ∨ o = some (b, st) := by
  obtain rfl | rfl := hi
  · exact .inl h
  · exact .inr h

/-- Settles O44. -/
theorem powerStateTransitions : Obligations.PowerStateTransitions := by
  intro s t hi hstep hne
  cases stepKind_of_step hstep with
  | other hb => exact absurd hb.pstate hne
  | powerOnReset hm ht => exact .inr (.inr (.inr (.inr (.inr ⟨by rw [ht]; rfl, hm⟩))))
  | standbyExit hm he ht =>
    obtain ⟨hs, -⟩ := Bool.and_eq_true_iff.mp he
    exact .inr (.inr (.inr (.inr (.inl ⟨of_decide_eq_true hs, by rw [ht]; rfl, hm, he⟩))))
  | accepts ins w rest hs _ hp _ _ ht =>
    exact absurd ((flightStep_of_accepted hp ht).pstate_of_plain (plain_firstStep ins)) hne
  | flight f hm hs ht =>
    have hf := hi.inFlight hs
    have hst : FlightStep (dropMove s) f t := flightStep_of_exec hs hf.port ht
    have htaken := stepTaken_eq hm hs
    have hrow := (hst.pstate_cases hf).resolve_left hne
    generalize t.pwr.pstate = p at hrow
    cases hrow with
    | sleep u d ha hins hat =>
      rw [hat] at htaken
      exact .inl ⟨ha, rfl, u, d, taken_either htaken hins⟩
    | stop ha hins =>
      obtain ⟨u, d, hins, hat⟩ | ⟨hins, hat⟩ := hins <;> rw [hat] at htaken
      · exact .inr (.inl ⟨ha, rfl, .inl ⟨u, d, taken_either htaken hins⟩⟩)
      · exact .inr (.inl ⟨ha, rfl, .inr (hins ▸ htaken)⟩)
    | standby ha hins hat =>
      rw [hat] at htaken
      exact .inr (.inr (.inl ⟨ha, rfl, f.ins, hins, htaken⟩))
    | wake ha hwake =>
      obtain ⟨hat, hw⟩ | ⟨hins, hat, he⟩ := hwake <;> rw [hat] at htaken
      · exact .inr (.inr (.inr (.inl ⟨ha, rfl, .inl ⟨f.ins, htaken, hw⟩⟩)))
      · exact .inr (.inr (.inr (.inl ⟨ha, rfl, .inr ⟨hins ▸ htaken, he⟩⟩)))

/-! ### The masked steps -/

theorem pstateAt_of_masked {st : StepName} (h : masked st = true) (ins : Instr) : pstateAt ins st ≠ .standbyWait := by
  cases st with
  | E12 => obtain he | he := pstateAt_E12 ins <;> rw [he] <;> decide
  | B8 => cases h
  | _ => exact nofun

theorem FlightStep.rings_of_masked {s t : State} {f : Flight} (hst : FlightStep s f t) (hm : masked f.step = true) :
    t.rings = s.rings := by
  cases hst with
  | D4 | U3 | Z1 => cases hm
  | _ => rfl

/-- Settles O60. -/
theorem nothingInterruptsAPowerSequence : Obligations.NothingInterruptsAPowerSequence := by
  intro s t f hi hs hmask hstep
  have hf := hi.inFlight hs
  have hint : intCtx s.pwr = false := (intCtx_eq_false_iff _).mpr (.inl (by rw [hf.gie, hmask]; rfl))
  cases stepKind_of_step hstep with
  | powerOnReset hm => exact .inr hm
  | standbyExit _ he =>
    obtain ⟨hw, -⟩ := Bool.and_eq_true_iff.mp he
    exact absurd (hf.pstate.symm.trans (of_decide_eq_true hw)) (pstateAt_of_masked hmask f.ins)
  | accepts _ _ _ hidle => cases hs.symm.trans hidle
  | flight f' _ hs' ht =>
    cases hs.symm.trans hs'
    have hst : FlightStep (dropMove s) f t := flightStep_of_exec hs hf.port ht
    have hu := hst.unwritten_eq
    exact .inl ⟨congrArg Unwritten.tick hu, hst.rings_of_masked hmask, congrArg Unwritten.cmdP hu⟩
  | other hb =>
    obtain ⟨hc, hr⟩ | ⟨hi', -⟩ := hb.served
    · exact .inl ⟨hb.tick hint, hr, hc⟩
    · exact absurd (hint.symm.trans hi') (by decide)

/-- Settles O53: `CSR_READ` reads `PMSR` between commands, where the invariant says `Quiet`. -/
theorem pmsrReadsShowActive : Obligations.PmsrReadsShowActive := by
  intro s t hi hs h
  have hq := hi.quiet hs
  rw [exec_csrRead hs (decide_eq_true (.inl ⟨by decide, rfl⟩))] at h
  cases h
  obtain ⟨hps, hg, -, -, -, -, -, -, -, -, -, -, -, -, -, he, -⟩ := pmsr_fields s.pwr
  exact ⟨pmsr s.pwr, rfl, by rw [hps, hq.pstate]; rfl, by rw [hg, hq.gie], by rw [he, hq.extpend]⟩

end Sys2Proof.Machine
end

section
/-! PROOFS. Rings (R24, R137 to R141): the arithmetic of the cursors, and the unread bytes as a queue. -/

namespace Sys2Proof.Machine

/-! ### The arithmetic of the cursors -/

theorem advance_eq {cap c : Nat} (hc : c < cap) : advance cap c = if c < cap - 1 then c + 1 else 0 := by
  unfold advance
  split
  · exact Nat.mod_eq_of_lt (by omega)
  · rw [show c + 1 = cap by omega, Nat.mod_self]

theorem availCount_eq {cap h t : Nat} (hh : h < cap) (ht : t < cap) :
    availCount cap h t = if t ≤ h then h - t else cap + h - t := by
  unfold availCount
  split
  case isTrue hle => rw [show cap + h - t = h - t + cap by omega, Nat.add_mod_right, Nat.mod_eq_of_lt (by omega)]
  case isFalse hgt => exact Nat.mod_eq_of_lt (by omega)

theorem availCount_le {cap h t : Nat} (hh : h < cap) (ht : t < cap) : availCount cap h t ≤ cap - 1 := by
  rw [availCount_eq hh ht]
  split <;> omega

/-- R137: a ring is empty iff nothing is unread. -/
theorem availCount_eq_zero_iff {cap h t : Nat} (hh : h < cap) (ht : t < cap) : h = t ↔ availCount cap h t = 0 := by
  rw [availCount_eq hh ht]
  split <;> omega

/-- R137: a ring is full iff `CAP − 1` bytes are unread. -/
theorem advance_eq_tail_iff {cap h t : Nat} (hh : h < cap) (ht : t < cap) :
    advance cap h = t ↔ availCount cap h t = cap - 1 := by
  rw [availCount_eq hh ht, advance_eq hh]
  split <;> split <;> omega

/-- Settles O13. -/
theorem ringArithmetic : Obligations.RingArithmetic :=
  ⟨fun _ _ => advance_eq, fun _ _ _ hh ht =>
    ⟨availCount_eq hh ht, availCount_le hh ht, availCount_eq_zero_iff hh ht, advance_eq_tail_iff hh ht⟩⟩

theorem availCount_advance_head {cap h t : Nat} (hh : h < cap) (ht : t < cap) (hn : advance cap h ≠ t) :
    availCount cap (advance cap h) t = availCount cap h t + 1 := by
  have ha : advance cap h < cap := Nat.mod_lt _ (by omega)
  rw [availCount_eq ha ht, availCount_eq hh ht]
  rw [advance_eq hh] at hn ⊢
  split_ifs at hn ⊢ <;> omega

theorem availCount_advance_tail {cap h t : Nat} (hh : h < cap) (ht : t < cap) (hn : h ≠ t) :
    availCount cap h t = availCount cap h (advance cap t) + 1 := by
  have ha : advance cap t < cap := Nat.mod_lt _ (by omega)
  rw [availCount_eq hh ha, availCount_eq hh ht, advance_eq ht]
  split <;> split <;> split <;> omega

/-- The slot of the `j`-th unread byte, counted on from the next one. -/
theorem slot_succ (cap t j : Nat) : (t + (j + 1)) % cap = (advance cap t + j) % cap := by
  rw [advance, Nat.mod_add_mod, Nat.add_assoc, Nat.add_comm 1 j]

theorem slot_eq {cap t j : Nat} (ht : t < cap) (hj : j < cap) :
    (t + j) % cap = if t + j < cap then t + j else t + j - cap := by
  split
  case isTrue h => exact Nat.mod_eq_of_lt h
  case isFalse h => rw [Nat.mod_eq_sub_mod (by omega), Nat.mod_eq_of_lt (by omega)]

/-- The slot past the unread bytes is the one at `HEAD`. -/
theorem slot_availCount {cap h t : Nat} (hh : h < cap) (ht : t < cap) : (t + availCount cap h t) % cap = h := by
  have hle := availCount_le hh ht
  rw [slot_eq ht (by omega), availCount_eq hh ht]
  split <;> split at * <;> omega

/-- No unread byte stands at `HEAD`. -/
theorem slot_ne_head {cap h t j : Nat} (hh : h < cap) (ht : t < cap) (hj : j < availCount cap h t) :
    (t + j) % cap ≠ h := by
  have hle := availCount_le hh ht
  rw [availCount_eq hh ht] at hj hle
  rw [slot_eq ht (by omega)]
  split <;> split at hj <;> omega

/-! ### The unread bytes -/

@[simp] theorem unread_length (cap : Nat) (r : Ring) : (unread cap r).length = availCount cap r.head r.tail := by
  rw [unread, List.length_map, List.length_range]

/-- An instance as `Ring.ok` says: its cursors in range and its storage canonical. -/
theorem ring_cursors {s : State} (h : ringsOk s = true) {i : Nat} (hi : i < s.cfg.nRb) :
    (ringAt i s).head < s.cfg.cap ∧ (ringAt i s).tail < s.cfg.cap ∧ (ringAt i s).buf.wf = true := by
  obtain ⟨hh, ht, hwf, -⟩ := (Ring.ok_iff _ _).mp (ringAt_ok h hi)
  exact ⟨hh, ht, hwf⟩

theorem unread_eq_nil_iff {cap : Nat} {r : Ring} (hh : r.head < cap) (ht : r.tail < cap) :
    unread cap r = [] ↔ r.head = r.tail := by
  rw [← List.length_eq_zero_iff, unread_length, ← availCount_eq_zero_iff hh ht]

/-- Storing at `HEAD` and moving `HEAD` on appends. -/
theorem unread_pushed {cap : Nat} {r : Ring} (hh : r.head < cap) (ht : r.tail < cap) (hwf : r.buf.wf = true)
    (hn : advance cap r.head ≠ r.tail) (b : Byte) :
    unread cap ⟨advance cap r.head, r.tail, r.buf.write r.head b⟩ = unread cap r ++ [b] := by
  simp only [unread, availCount_advance_head hh ht hn, List.range_succ, List.map_append, List.map_cons, List.map_nil,
    slot_availCount hh ht, Memory.read_write_same _ _ _ hwf]
  congr 1
  refine List.map_congr_left fun j hj => ?_
  exact Memory.read_write_other _ _ _ _ hwf (slot_ne_head hh ht (List.mem_range.mp hj))

/-- Moving `TAIL` on takes the oldest byte. -/
theorem unread_popped {cap : Nat} {r : Ring} (hh : r.head < cap) (ht : r.tail < cap) (hn : r.head ≠ r.tail) :
    unread cap r = r.buf.read r.tail :: unread cap { r with tail := advance cap r.tail } := by
  simp only [unread, availCount_advance_tail hh ht hn, List.range_succ_eq_map, List.map_cons, List.map_map,
    Nat.add_zero, Nat.mod_eq_of_lt ht]
  congr 1
  exact List.map_congr_left fun j _ => congrArg r.buf.read (slot_succ cap r.tail j)

/-! ### `RB_INSERT` -/

/-- The two stores of `RB_INSERT` in one. -/
theorem setHead_bufWrite (i n k : Nat) (b : Byte) (s : State) :
    setHead i n (bufWrite i k b s) = setRing i ⟨n, (ringAt i s).tail, (ringAt i s).buf.write k b⟩ s := by
  by_cases hi : i < s.rings.length
  · rw [setHead, bufWrite, ringAt_setRing_same i _ s hi]
    simp only [setRing, List.set_set]
  · simp only [setHead, bufWrite, setRing, List.set_eq_of_length_le (Nat.le_of_not_lt hi)]

theorem insertByte_of_room {i : Nat} {s : State} (h : advance s.cfg.cap (ringAt i s).head ≠ (ringAt i s).tail)
    (b : Byte) :
    insertByte i b s =
      setRing i ⟨advance s.cfg.cap (ringAt i s).head, (ringAt i s).tail,
        (ringAt i s).buf.write (ringAt i s).head b⟩ s :=
  (if_pos h).trans (setHead_bufWrite ..)

theorem insertByte_of_full {i : Nat} {s : State} (h : advance s.cfg.cap (ringAt i s).head = (ringAt i s).tail)
    (b : Byte) : insertByte i b s = s := if_neg (not_not_intro h)

/-- Settles O14. -/
theorem insertStoresOrDrops : Obligations.InsertStoresOrDrops := by
  intro s i b hi
  refine ⟨fun hint hroom => ?_, fun hint hfull => ?_, fun hint => ?_⟩
  · rw [exec_rbInsert hint hi, insertByte_of_room hroom]; rfl
  · rw [exec_rbInsert hint hi, insertByte_of_full hfull]; rfl
  · simp [exec, execRbInsert, hint]

/-- Settles O15: the byte by the storage primitive of its slot, other slots and instances untouched. -/
theorem insertWritesOneByte : Obligations.InsertWritesOneByte := by
  intro s t i b hr hi hint h
  rw [exec_rbInsert hint hi] at h
  cases h
  have hlen := ring_exists hr hi
  obtain ⟨-, -, hwf⟩ := ring_cursors hr hi
  refine ⟨fun hroom => ?_, fun hfull => ?_⟩
  · rw [insertByte_of_room hroom]
    let u := setRing i.toNat ⟨advance s.cfg.cap (ringAt i.toNat s).head, (ringAt i.toNat s).tail,
      (ringAt i.toNat s).buf.write (ringAt i.toNat s).head b⟩ s
    have hsame : ringAt i.toNat u = _ := ringAt_setRing_same i.toNat _ s hlen
    constructor
    · show (ringAt i.toNat u).buf.read _ = b
      rw [hsame]
      exact Memory.read_write_same _ _ _ hwf
    · intro j k hjk
      show (ringAt j u).buf.read k = _
      by_cases hj : j = i.toNat
      · subst hj
        rw [hsame]
        exact Memory.read_write_other _ _ _ _ hwf fun hk => hjk (by rw [hk])
      · rw [ringAt_setRing_other _ _ _ s hj, bufRead]
  · rw [insertByte_of_full hfull]
    exact fun _ _ => rfl

/-- The unread bytes after a served `RB_INSERT` (R139, R141). -/
theorem unread_insertByte {s : State} (hr : ringsOk s = true) {i : Nat} (hi : i < s.cfg.nRb) (b : Byte) :
    unread s.cfg.cap (ringAt i (insertByte i b s)) =
      if (unread s.cfg.cap (ringAt i s)).length < s.cfg.cap - 1 then unread s.cfg.cap (ringAt i s) ++ [b]
      else unread s.cfg.cap (ringAt i s) := by
  obtain ⟨hh, ht, hwf⟩ := ring_cursors hr hi
  have hle := availCount_le hh ht
  have hfull := advance_eq_tail_iff hh ht
  rw [unread_length]
  split
  case isTrue hlt =>
    have hroom : advance s.cfg.cap (ringAt i s).head ≠ (ringAt i s).tail := fun h => by
      have := hfull.mp h
      omega
    rw [insertByte_of_room hroom, ringAt_setRing_same i _ s (ring_exists hr hi), unread_pushed hh ht hwf hroom]
  case isFalse hge => rw [insertByte_of_full (hfull.mpr (by omega))]

/-- Settles O21. -/
theorem insertAppendsToTheUnreadBytes : Obligations.InsertAppendsToTheUnreadBytes := by
  intro s t i b hinv hi hint h
  rw [exec_rbInsert hint hi] at h
  cases h
  exact ⟨unread_insertByte hinv.rings hi b, fun j hj => ringAt_insertByte_other (ring_exists hinv.rings hi) hj b⟩

end Sys2Proof.Machine
end

section
/-! PROOFS. What other agents do to a ring while a command of port C is in flight (R142): they append bytes of the words
that port P serves, and nothing else. -/

namespace Sys2Proof.Machine

/-! ### Steps in between -/

theorem Bystander.noReset {s t : State} (h : Bystander s t) (hs : noReset s.sched = true) : noReset t.sched = true := by
  obtain he | he := h.sched <;> rw [he]
  · exact hs
  · exact List.all_eq_true.mpr fun m hm => List.all_eq_true.mp hs m (List.mem_of_mem_tail hm)

theorem FlightStep.sched_eq {s t : State} {f : Flight} (h : FlightStep s f t) : t.sched = s.sched :=
  congrArg Unwritten.sched h.unwritten_eq

theorem FlightStep.cmdC_eq {s t : State} {f : Flight} (h : FlightStep s f t) : t.cmdC = s.cmdC :=
  congrArg Unwritten.cmdC h.unwritten_eq

/-- The agent that moves next is one that is scheduled, or port C. -/
theorem nextMove_mem {s : State} {m : Move} (h : nextMove s = m) (hm : m ≠ .portC) : m ∈ s.sched := by
  unfold nextMove at h
  cases hs : s.sched with
  | nil => rw [hs] at h; exact absurd h.symm hm
  | cons a as => rw [hs] at h; cases h; exact List.mem_cons_self

theorem nextMove_of_noReset {s : State} (h : noReset s.sched = true) :
    nextMove s ≠ .powerOnReset ∧ nextMove s ≠ .standbyExitReset :=
  ⟨fun hm => absurd (List.all_eq_true.mp h _ (nextMove_mem hm (by decide))) (by decide),
    fun hm => absurd (List.all_eq_true.mp h _ (nextMove_mem hm (by decide))) (by decide)⟩

/-- The states of a run on which no reset and no further command of port C falls. -/
structure Undisturbed (p : Params) (s : State) : Prop where
  inv : Inv s
  cfg : s.cfg = p
  cmdC : s.cmdC = []
  sched : noReset s.sched = true

/-- What the steps of the command in flight and the steps of the other agents keep, holds after every run without a reset
and without a further command. -/
theorem run_undisturbed {p : Params} {P : State → Prop}
    (hother : ∀ s t, Undisturbed p s → P s → Bystander s t → P t)
    (hflight : ∀ s t f, Undisturbed p s → P s → s.seq = .busy f → exec f.ins s = .next t → P t)
    {k : Nat} {s t : State} (hs : Undisturbed p s) (hp : P s) (h : run k s = .next t) : P t := by
  refine (run_keeps (P := fun s => Undisturbed p s ∧ P s) (fun s t ⟨hs, hp⟩ hstep => ?_) k s t ⟨hs, hp⟩ h).2
  have hinv := everyStepKeepsTheInvariant s t hs.inv hstep
  obtain ⟨hnp, hns⟩ := nextMove_of_noReset hs.sched
  cases stepKind_of_step hstep with
  | powerOnReset hm => exact absurd hm hnp
  | standbyExit hm => exact absurd hm hns
  | accepts ins w rest _ hc => cases hs.cmdC.symm.trans hc
  | other hb =>
    obtain ⟨hcmd, -⟩ := hb.portC (.inl hs.cmdC)
    exact ⟨⟨hinv, hb.cfg.trans hs.cfg, hcmd.trans hs.cmdC, hb.noReset hs.sched⟩, hother s t hs hp hb⟩
  | flight f _ hseq ht =>
    have hd := bystander_dropMove s
    have hu : Undisturbed p (dropMove s) := ⟨inv_dropMove hs.inv, hs.cfg, hs.cmdC, hd.noReset hs.sched⟩
    have hst : FlightStep (dropMove s) f t := flightStep_of_exec hseq (hs.inv.inFlight hseq).port ht
    exact ⟨⟨hinv, hst.cfg_eq.trans hs.cfg, hst.cmdC_eq.trans hs.cmdC, by rw [hst.sched_eq]; exact hu.sched⟩,
      hflight (dropMove s) t f hu (hother s _ hs hp hd) hseq ht⟩

/-! ### Bytes fed by port P -/

theorem insertedBytes_append (i : Byte) (ws vs : List Cmd) :
    insertedBytes i (ws ++ vs) = insertedBytes i ws ++ insertedBytes i vs := List.filterMap_append

theorem insertedBytes_same {i b : Byte} {w : Cmd} (h : decode w = .ok (.rbInsert i b)) : insertedBytes i [w] = [b] := by
  simp [insertedBytes, h]

/-- A word that inserts nothing into instance `i`. -/
theorem insertedBytes_other {i : Byte} {w : Cmd} (h : ∀ b, decode w ≠ .ok (.rbInsert i b)) : insertedBytes i [w] = [] := by
  unfold insertedBytes
  rw [List.filterMap_cons]
  split
  · rfl
  next b heq =>
    split at heq
    next j b' hd =>
      split at heq
      next hj => exact absurd (hj ▸ hd) (h b')
      next => cases heq
    next => cases heq

/-- From the queue `q` and the script `ws` of port P to the queue `q'` and the script `ws'`: the words served have appended
bytes of their inserts, in order, all of them if they fit in the ring. -/
def Fed (i : Byte) (cap : Nat) (q : List Byte) (ws : List Cmd) (q' : List Byte) (ws' : List Cmd) : Prop :=
  ∃ served more, q' = q ++ more ∧ ws = served ++ ws' ∧ more.Sublist (insertedBytes i served) ∧
    (q.length + (insertedBytes i served).length ≤ cap - 1 → more = insertedBytes i served)

theorem Fed.refl (i : Byte) (cap : Nat) (q : List Byte) (ws : List Cmd) : Fed i cap q ws q ws :=
  ⟨[], [], (List.append_nil q).symm, rfl, List.Sublist.refl _, fun _ => rfl⟩

/-- One word more is served, and inserts nothing here. -/
theorem Fed.serve_other {i : Byte} {cap : Nat} {q q' : List Byte} {ws ws' : List Cmd} {w : Cmd}
    (h : Fed i cap q ws q' (w :: ws')) (hw : ∀ b, decode w ≠ .ok (.rbInsert i b)) : Fed i cap q ws q' ws' := by
  obtain ⟨served, more, hq, hws, hsub, hall⟩ := h
  have he : insertedBytes i (served ++ [w]) = insertedBytes i served := by
    rw [insertedBytes_append, insertedBytes_other hw, List.append_nil]
  exact ⟨served ++ [w], more, hq, by rw [hws, List.append_assoc]; rfl, by rw [he]; exact hsub, by rw [he]; exact hall⟩

/-- One word more is served and its byte is stored. -/
theorem Fed.serve_stored {i b : Byte} {cap : Nat} {q q' : List Byte} {ws ws' : List Cmd} {w : Cmd}
    (h : Fed i cap q ws q' (w :: ws')) (hw : decode w = .ok (.rbInsert i b)) : Fed i cap q ws (q' ++ [b]) ws' := by
  obtain ⟨served, more, hq, hws, hsub, hall⟩ := h
  have he : insertedBytes i (served ++ [w]) = insertedBytes i served ++ [b] := by
    rw [insertedBytes_append, insertedBytes_same hw]
  refine ⟨served ++ [w], more ++ [b], by rw [hq, List.append_assoc], by rw [hws, List.append_assoc]; rfl, ?_, ?_⟩
  · rw [he]; exact hsub.append (List.Sublist.refl _)
  · rw [he, List.length_append, List.length_singleton]
    exact fun hle => by rw [hall (by omega)]

/-- One word more is served and its byte is dropped: then not all bytes fit in the ring. -/
theorem Fed.serve_dropped {i b : Byte} {cap : Nat} {q q' : List Byte} {ws ws' : List Cmd} {w : Cmd}
    (h : Fed i cap q ws q' (w :: ws')) (hw : decode w = .ok (.rbInsert i b)) (hfull : cap - 1 ≤ q'.length) :
    Fed i cap q ws q' ws' := by
  obtain ⟨served, more, hq, hws, hsub, -⟩ := h
  have he : insertedBytes i (served ++ [w]) = insertedBytes i served ++ [b] := by
    rw [insertedBytes_append, insertedBytes_same hw]
  have hlen := hsub.length_le
  rw [hq, List.length_append] at hfull
  refine ⟨served ++ [w], more, hq, by rw [hws, List.append_assoc]; rfl, ?_, ?_⟩
  · rw [he]; exact hsub.trans (List.sublist_append_left _ _)
  · rw [he, List.length_append, List.length_singleton]
    exact fun hle => by omega

/-- A bystander's step feeds the ring; `taken` are bytes that the consumer has taken from it. -/
theorem Fed.bystander {i : Byte} {s t : State} (hb : Bystander s t) (hr : ringsOk s = true) (hi : i.toNat < s.cfg.nRb)
    {q taken : List Byte} {ws : List Cmd}
    (h : Fed i s.cfg.cap q ws (taken ++ unread s.cfg.cap (ringAt i.toNat s)) s.cmdP) :
    Fed i s.cfg.cap q ws (taken ++ unread s.cfg.cap (ringAt i.toNat t)) t.cmdP := by
  obtain ⟨hc, hrings⟩ | ⟨-, w, hc, ⟨j, b, hd, hj, -, hrings⟩ | ⟨hno, hrings⟩⟩ := hb.served <;>
    rw [ringAt_congr hrings]
  · rw [hc]; exact h
  · rw [hc] at h
    by_cases hij : i = j
    · subst hij
      rw [unread_insertByte hr hi b]
      split
      · rw [← List.append_assoc]; exact h.serve_stored hd
      next hfull => exact h.serve_dropped hd (by rw [List.length_append]; omega)
    · have hne : i.toNat ≠ j.toNat := fun he => hij (BitVec.eq_of_toNat_eq he)
      rw [ringAt_insertByte_other (ring_exists hr hj) hne b]
      exact h.serve_other fun b' hd' => by cases hd.symm.trans hd'; exact hij rfl
  · rw [hc] at h
    exact h.serve_other fun b' hd' => hno i b' hd' hi

/-- A bystander never moves `TAIL`. -/
theorem Bystander.tail_eq {s t : State} (hb : Bystander s t) (hr : ringsOk s = true) (i : Nat) :
    (ringAt i t).tail = (ringAt i s).tail := by
  obtain ⟨-, hrings⟩ | ⟨-, w, -, ⟨j, b, -, hj, -, hrings⟩ | ⟨-, hrings⟩⟩ := hb.served <;> rw [ringAt_congr hrings]
  by_cases hij : i = j.toNat
  · subst hij; exact insertByte_tail (ring_exists hr hj) b
  · rw [ringAt_insertByte_other (ring_exists hr hj) hij]

/-- What was unread stays unread, in front. -/
theorem Bystander.unread_append {s t : State} (hb : Bystander s t) (hr : ringsOk s = true) {i : Byte}
    (hi : i.toNat < s.cfg.nRb) :
    ∃ more, unread s.cfg.cap (ringAt i.toNat t) = unread s.cfg.cap (ringAt i.toNat s) ++ more := by
  obtain ⟨-, more, hq, -⟩ := Fed.bystander (taken := []) hb hr hi (Fed.refl i s.cfg.cap _ s.cmdP)
  exact ⟨more, hq⟩

/-! ### `RB_AVAIL` -/

/-- `RB_AVAIL i` begun on the queue `q` with the script `ws` on port P. -/
inductive AvailPhase (p : Params) (i : Byte) (q : List Byte) (ws : List Cmd) (s : State) : Prop
  | counting (h : Nat) (v : Byte) (n : Word) (c : ClkId) (hs : s.seq = .busy ⟨.rbAvail i, .A2, h, v, n, c⟩)
      (hh : availCount p.cap h (ringAt i.toNat s).tail = q.length)
      (hf : Fed i p.cap q ws (unread p.cap (ringAt i.toNat s)) s.cmdP)
  | done (hs : s.seq = .idle) (hrsp : s.rspC = some ⟨.ok, BitVec.ofNat 32 q.length⟩)
      (hf : Fed i p.cap q ws (unread p.cap (ringAt i.toNat s)) s.cmdP)

theorem Undisturbed.fed {p : Params} {s t : State} (hu : Undisturbed p s) (hb : Bystander s t) {i : Byte}
    (hi : i.toNat < p.nRb) {q taken : List Byte} {ws : List Cmd}
    (h : Fed i p.cap q ws (taken ++ unread p.cap (ringAt i.toNat s)) s.cmdP) :
    Fed i p.cap q ws (taken ++ unread p.cap (ringAt i.toNat t)) t.cmdP := by
  obtain ⟨hinv, rfl, -, -⟩ := hu
  exact Fed.bystander hb hinv.rings hi h

theorem Undisturbed.rspC {p : Params} {s t : State} (hu : Undisturbed p s) (hb : Bystander s t) : t.rspC = s.rspC :=
  (hb.portC (.inl hu.cmdC)).2

theorem availPhase_other {p : Params} {i : Byte} {q : List Byte} {ws : List Cmd} (hi : i.toNat < p.nRb) {s t : State}
    (hu : Undisturbed p s) (h : AvailPhase p i q ws s) (hb : Bystander s t) : AvailPhase p i q ws t := by
  cases h with
  | counting h v n c hs hh hf =>
    exact .counting h v n c (hb.seq.trans hs) (by rw [hb.tail_eq hu.inv.rings, hh]) (hu.fed (taken := []) hb hi hf)
  | done hs hrsp hf => exact .done (hb.seq.trans hs) ((hu.rspC hb).trans hrsp) (hu.fed (taken := []) hb hi hf)

theorem availPhase_flight {p : Params} {i : Byte} {q : List Byte} {ws : List Cmd} (hi : i.toNat < p.nRb) {s t : State}
    {f : Flight} (hu : Undisturbed p s) (h : AvailPhase p i q ws s) (hs : s.seq = .busy f)
    (ht : exec f.ins s = .next t) : AvailPhase p i q ws t := by
  cases h with
  | counting h v n c hs' hh hf =>
    cases hs.symm.trans hs'
    obtain ⟨hinv, rfl, -, -⟩ := hu
    have he := (availStepByStep s i h v n c hi).2
    rw [← eq_atStep hs] at he
    cases ht.symm.trans he
    exact .done rfl (by rw [← hh]; rfl) hf
  | done hs' => cases hs.symm.trans hs'

/-- The first step of a command accepted between commands. -/
theorem undisturbed_first {s s₁ : State} {ins : Instr} (hinv : Inv s) (hs : s.seq = .idle) (hc : s.cmdC = [])
    (hn : noReset s.sched = true) (hp : ins.port = .C) (hw : ins.wellFormed s.cfg = true)
    (hx : exec ins s = .next s₁) : Undisturbed s.cfg s₁ := by
  rw [exec_accept hp hs hw] at hx
  have hst := flightStep_of_accepted hp hx
  exact ⟨hst.inv rfl (inv_accepted hinv hs hp hw), hst.cfg_eq, hst.cmdC_eq.trans hc, hst.sched_eq.symm ▸ hn⟩

/-- Settles O24: the head snapshot counts the bytes unread at A1, and the ring only grows until A2. -/
theorem availIsALowerBound : Obligations.AvailIsALowerBound := by
  intro s s₁ t i k hinv hs hc _ hn hi hx hrun ht
  have hu := undisturbed_first hinv hs hc hn rfl (ins := .rbAvail i) (decide_eq_true hi) hx
  rw [(availStepByStep s i 0 0#8 0#32 0#8 hi).1 hs] at hx
  cases hx
  have hstart := AvailPhase.counting (p := s.cfg) (i := i) (q := unread s.cfg.cap (ringAt i.toNat s)) (ws := s.cmdP)
    (s := atStep (.rbAvail i) .A2 (ringAt i.toNat s).head 0#8 0#32 0#8 { s with rspC := none })
    _ _ _ _ rfl (unread_length _ _).symm (Fed.refl ..)
  cases run_undisturbed (fun _ _ => availPhase_other hi) (fun _ _ _ => availPhase_flight hi) hu hstart hrun with
  | counting _ _ _ _ hbusy => cases ht.symm.trans hbusy
  | done _ hrsp hf =>
    obtain ⟨_, more, hq, -⟩ := hf
    exact ⟨hrsp, by rw [hq, List.length_append]; exact Nat.le_add_right _ _⟩

/-! ### `RB_READ` -/

/-- `RB_READ i` begun on the queue `q` with the script `ws` on port P. -/
inductive ReadPhase (p : Params) (i : Byte) (q : List Byte) (ws : List Cmd) (s : State) : Prop
  | D2 (h : Nat) (v : Byte) (n : Word) (c : ClkId) (hs : s.seq = .busy ⟨.rbRead i, .D2, h, v, n, c⟩)
      (hh : h = (ringAt i.toNat s).tail ↔ q = []) (hf : Fed i p.cap q ws (unread p.cap (ringAt i.toNat s)) s.cmdP)
  | D3 (h : Nat) (v : Byte) (n : Word) (c : ClkId) (hs : s.seq = .busy ⟨.rbRead i, .D3, h, v, n, c⟩) (hq : q ≠ [])
      (hf : Fed i p.cap q ws (unread p.cap (ringAt i.toNat s)) s.cmdP)
  | D4 (h : Nat) (v : Byte) (n : Word) (c : ClkId) (hs : s.seq = .busy ⟨.rbRead i, .D4, h, v, n, c⟩)
      (hq : q.head? = some v) (hf : Fed i p.cap q ws (unread p.cap (ringAt i.toNat s)) s.cmdP)
  | empty (hs : s.seq = .idle) (hrsp : s.rspC = some ⟨.ok, emptySentinel⟩) (hq : q = [])
      (hf : Fed i p.cap q ws (unread p.cap (ringAt i.toNat s)) s.cmdP)
  | done (v : Byte) (hs : s.seq = .idle) (hrsp : s.rspC = some ⟨.ok, v.setWidth 32⟩) (hq : q.head? = some v)
      (hf : Fed i p.cap q ws ([v] ++ unread p.cap (ringAt i.toNat s)) s.cmdP)

theorem readPhase_other {p : Params} {i : Byte} {q : List Byte} {ws : List Cmd} (hi : i.toNat < p.nRb) {s t : State}
    (hu : Undisturbed p s) (h : ReadPhase p i q ws s) (hb : Bystander s t) : ReadPhase p i q ws t := by
  cases h with
  | D2 h v n c hs hh hf =>
    exact .D2 h v n c (hb.seq.trans hs) (by rw [hb.tail_eq hu.inv.rings]; exact hh) (hu.fed (taken := []) hb hi hf)
  | D3 h v n c hs hq hf => exact .D3 h v n c (hb.seq.trans hs) hq (hu.fed (taken := []) hb hi hf)
  | D4 h v n c hs hq hf => exact .D4 h v n c (hb.seq.trans hs) hq (hu.fed (taken := []) hb hi hf)
  | empty hs hrsp hq hf =>
    exact .empty (hb.seq.trans hs) ((hu.rspC hb).trans hrsp) hq (hu.fed (taken := []) hb hi hf)
  | done v hs hrsp hq hf => exact .done v (hb.seq.trans hs) ((hu.rspC hb).trans hrsp) hq (hu.fed hb hi hf)

/-- The byte at `TAIL` and the rest, of a ring on which something was unread. -/
theorem unread_of_fed {i : Byte} {s : State} (hr : ringsOk s = true) (hi : i.toNat < s.cfg.nRb) {u : List Byte}
    (hu : unread s.cfg.cap (ringAt i.toNat s) = u) (hne : u ≠ []) :
    u = oldestByte i.toNat s :: unread s.cfg.cap (ringAt i.toNat (dropOldest i.toNat s)) := by
  obtain ⟨hh, ht, -⟩ := ring_cursors hr hi
  have hht : (ringAt i.toNat s).head ≠ (ringAt i.toNat s).tail :=
    fun he => hne (hu.symm.trans ((unread_eq_nil_iff hh ht).mpr he))
  rw [ringAt_dropOldest_same (ring_exists hr hi), ← hu]
  exact unread_popped hh ht hht

theorem Fed.ne_nil {i : Byte} {cap : Nat} {q q' : List Byte} {ws ws' : List Cmd} (h : Fed i cap q ws q' ws')
    (hq : q ≠ []) : q' ≠ [] := by
  obtain ⟨-, more, rfl, -⟩ := h
  exact List.append_ne_nil_of_left_ne_nil hq more

/-- The oldest byte fed from a queue that was not empty is that queue's. -/
theorem Fed.head_eq {i v : Byte} {cap : Nat} {q q' : List Byte} {ws ws' : List Cmd}
    (h : Fed i cap q ws (v :: q') ws') (hq : q ≠ []) : q.head? = some v := by
  obtain ⟨-, more, he, -⟩ := h
  cases q with
  | nil => exact absurd rfl hq
  | cons a q => cases he; rfl

theorem readPhase_flight {p : Params} {i : Byte} {q : List Byte} {ws : List Cmd} (hi : i.toNat < p.nRb) {s t : State}
    {f : Flight} (hu : Undisturbed p s) (h : ReadPhase p i q ws s) (hs : s.seq = .busy f)
    (ht : exec f.ins s = .next t) : ReadPhase p i q ws t := by
  obtain ⟨hinv, rfl, -, -⟩ := hu
  cases h with
  | D2 h v n c hs' hh hf =>
    cases hs.symm.trans hs'
    obtain ⟨-, hempty, hgo, -⟩ := readStepByStep s i h v n c hi
    rw [← eq_atStep hs] at hempty hgo
    by_cases he : h = (ringAt i.toNat s).tail
    · cases ht.symm.trans (hempty he)
      exact .empty rfl rfl (hh.mp he) hf
    · cases ht.symm.trans (hgo he)
      exact .D3 h v n c rfl (fun hq => he (hh.mpr hq)) hf
  | D3 h v n c hs' hq hf =>
    cases hs.symm.trans hs'
    obtain ⟨-, -, -, hd3, -⟩ := readStepByStep s i h v n c hi
    rw [← eq_atStep hs] at hd3
    cases ht.symm.trans hd3
    have he := unread_of_fed hinv.rings hi rfl (hf.ne_nil hq)
    exact .D4 h _ n c rfl (Fed.head_eq (he ▸ hf) hq) hf
  | D4 h v n c hs' hq hf =>
    cases hs.symm.trans hs'
    obtain ⟨-, -, -, -, hd4⟩ := readStepByStep s i h v n c hi
    rw [← eq_atStep hs] at hd4
    cases ht.symm.trans hd4
    have hne : q ≠ [] := by rintro rfl; cases hq
    have he := unread_of_fed hinv.rings hi rfl (hf.ne_nil hne)
    rw [he] at hf
    cases (hf.head_eq hne).symm.trans hq
    exact .done _ rfl rfl hq hf
  | empty hs' => cases hs.symm.trans hs'
  | done _ hs' => cases hs.symm.trans hs'

/-- Settles O23: from D1 on other agents only append; D2 to D4 take the byte that was oldest at D1. -/
theorem readActsAtItsFirstStep : Obligations.ReadActsAtItsFirstStep := by
  intro s s₁ t i k hinv hs hc _ hn hi hx hrun ht
  obtain ⟨hh, htail, -⟩ := ring_cursors hinv.rings hi
  have hu := undisturbed_first hinv hs hc hn rfl (ins := .rbRead i) (decide_eq_true hi) hx
  rw [(readStepByStep s i 0 0#8 0#32 0#8 hi).1 hs] at hx
  cases hx
  have hstart := ReadPhase.D2 (p := s.cfg) (i := i) (q := unread s.cfg.cap (ringAt i.toNat s)) (ws := s.cmdP)
    (s := atStep (.rbRead i) .D2 (ringAt i.toNat s).head 0#8 0#32 0#8 { s with rspC := none })
    _ _ _ _ rfl (unread_eq_nil_iff hh htail).symm (Fed.refl ..)
  cases run_undisturbed (fun _ _ => readPhase_other hi) (fun _ _ _ => readPhase_flight hi) hu hstart hrun with
  | D2 _ _ _ _ hbusy | D3 _ _ _ _ hbusy | D4 _ _ _ _ hbusy => cases ht.symm.trans hbusy
  | empty _ hrsp hq hf =>
    obtain ⟨served, more, he, hrest⟩ := hf
    rw [hq] at he hrest ⊢
    exact ⟨hrsp, served, more, he, hrest⟩
  | done v _ hrsp hq hf =>
    obtain ⟨served, more, he, hrest⟩ := hf
    obtain ⟨q, hcons⟩ := List.head?_eq_some_iff.mp hq
    rw [hcons] at he hrest ⊢
    exact ⟨hrsp, served, more, List.cons_injective he, hrest⟩

/-! ### `RB_RDUNTIL` -/

/-- `RB_RDUNTIL i, x` begun on the queue `q` with the script `ws` on port P and with `acc` on `ACC`: `out` is what it has
emitted. -/
inductive ReadUntilPhase (p : Params) (i x : Byte) (q : List Byte) (ws : List Cmd) (acc : List (Byte × Byte)) (s : State) :
    Prop
  | U2 (out : List Byte) (h : Nat) (v : Byte) (c : ClkId)
      (hs : s.seq = .busy ⟨.rbRdUntil i x, .U2, h, v, BitVec.ofNat 32 out.length, c⟩)
      (hacc : s.acc = acc ++ out.map fun b => (i, b)) (hx : x ∉ out)
      (hf : Fed i p.cap q ws (out ++ unread p.cap (ringAt i.toNat s)) s.cmdP)
  | U3 (out : List Byte) (h : Nat) (v : Byte) (c : ClkId)
      (hs : s.seq = .busy ⟨.rbRdUntil i x, .U3, h, v, BitVec.ofNat 32 out.length, c⟩)
      (hacc : s.acc = acc ++ out.map fun b => (i, b)) (hx : x ∉ out)
      (hf : Fed i p.cap q ws (out ++ unread p.cap (ringAt i.toNat s)) s.cmdP)
      (hne : unread p.cap (ringAt i.toNat s) ≠ [])
  | U4 (out : List Byte) (h : Nat) (v : Byte) (c : ClkId)
      (hs : s.seq = .busy ⟨.rbRdUntil i x, .U4, h, v, BitVec.ofNat 32 out.length, c⟩)
      (hacc : s.acc = acc ++ out.map fun b => (i, b)) (hx : x ∉ out)
      (hf : Fed i p.cap q ws ((out ++ [v]) ++ unread p.cap (ringAt i.toNat s)) s.cmdP)
  | done (out : List Byte) (hs : s.seq = .idle) (hrsp : s.rspC = some ⟨.ok, BitVec.ofNat 32 out.length⟩)
      (hacc : s.acc = acc ++ out.map fun b => (i, b)) (hx : x ∉ out)
      (hf : Fed i p.cap q ws ((out ++ [x]) ++ unread p.cap (ringAt i.toNat s)) s.cmdP)

theorem readUntilPhase_other {p : Params} {i x : Byte} {q : List Byte} {ws : List Cmd} {acc : List (Byte × Byte)}
    (hi : i.toNat < p.nRb) {s t : State} (hu : Undisturbed p s) (h : ReadUntilPhase p i x q ws acc s)
    (hb : Bystander s t) : ReadUntilPhase p i x q ws acc t := by
  cases h with
  | U2 out h v c hs hacc hx hf => exact .U2 out h v c (hb.seq.trans hs) (hb.acc.trans hacc) hx (hu.fed hb hi hf)
  | U3 out h v c hs hacc hx hf hne =>
    refine .U3 out h v c (hb.seq.trans hs) (hb.acc.trans hacc) hx (hu.fed hb hi hf) ?_
    obtain ⟨hinv, rfl, -, -⟩ := hu
    obtain ⟨more, he⟩ := hb.unread_append hinv.rings hi
    rw [he]
    exact List.append_ne_nil_of_left_ne_nil hne more
  | U4 out h v c hs hacc hx hf => exact .U4 out h v c (hb.seq.trans hs) (hb.acc.trans hacc) hx (hu.fed hb hi hf)
  | done out hs hrsp hacc hx hf =>
    exact .done out (hb.seq.trans hs) ((hu.rspC hb).trans hrsp) (hb.acc.trans hacc) hx (hu.fed hb hi hf)

theorem readUntilPhase_flight {p : Params} {i x : Byte} {q : List Byte} {ws : List Cmd} {acc : List (Byte × Byte)}
    (hi : i.toNat < p.nRb) {s t : State} {f : Flight} (hu : Undisturbed p s) (h : ReadUntilPhase p i x q ws acc s)
    (hs : s.seq = .busy f) (ht : exec f.ins s = .next t) : ReadUntilPhase p i x q ws acc t := by
  obtain ⟨hinv, rfl, -, -⟩ := hu
  cases h with
  | U2 out h v c hs' hacc hx hf =>
    cases hs.symm.trans hs'
    obtain ⟨hh, htail, -⟩ := ring_cursors hinv.rings hi
    obtain ⟨-, hempty, hgo, -⟩ := readUntilStepByStep s i x h v (BitVec.ofNat 32 out.length) c hi
    rw [← eq_atStep hs] at hempty hgo
    by_cases he : (ringAt i.toNat s).head = (ringAt i.toNat s).tail
    · cases ht.symm.trans (hempty he)
      exact .U2 out h v c hs hacc hx hf
    · cases ht.symm.trans (hgo he)
      exact .U3 out h v c rfl hacc hx hf fun hn => he ((unread_eq_nil_iff hh htail).mp hn)
  | U3 out h v c hs' hacc hx hf hne =>
    cases hs.symm.trans hs'
    obtain ⟨-, -, -, hu3, -⟩ := readUntilStepByStep s i x h v (BitVec.ofNat 32 out.length) c hi
    rw [← eq_atStep hs] at hu3
    cases ht.symm.trans hu3
    rw [unread_of_fed hinv.rings hi rfl hne, List.append_cons] at hf
    exact .U4 out h _ c rfl hacc hx hf
  | U4 out h v c hs' hacc hx hf =>
    cases hs.symm.trans hs'
    obtain ⟨-, -, -, -, hend, hgo⟩ := readUntilStepByStep s i x h v (BitVec.ofNat 32 out.length) c hi
    rw [← eq_atStep hs] at hend hgo
    by_cases hv : v = x
    · subst hv
      cases ht.symm.trans (hend rfl)
      exact .done out rfl rfl hacc hx hf
    · cases ht.symm.trans (hgo hv)
      refine .U2 (out ++ [v]) h v c ?_ ?_ ?_ hf
      · rw [List.length_append, List.length_singleton, BitVec.ofNat_add]; rfl
      · rw [List.map_append, ← List.append_assoc, ← hacc]; rfl
      · rw [List.mem_append, List.mem_singleton, not_or]; exact ⟨hx, fun he => hv he.symm⟩
  | done _ hs' => cases hs.symm.trans hs'

/-- The third part of O22: `RB_RDUNTIL` under interleaving. -/
theorem readUntil_interleaved {s s₁ t : State} {i x : Byte} {k : Nat} (hinv : Inv s) (hs : s.seq = .idle)
    (hc : s.cmdC = []) (hn : noReset s.sched = true) (hi : i.toNat < s.cfg.nRb)
    (hx : exec (.rbRdUntil i x) s = .next s₁) (hrun : run k s₁ = .next t) (ht : t.seq = .idle) :
    ∃ out, t.acc = s.acc ++ out.map (fun b => (i, b)) ∧ x ∉ out ∧ t.rspC = some ⟨.ok, BitVec.ofNat 32 out.length⟩ ∧
      Fed i s.cfg.cap (unread s.cfg.cap (ringAt i.toNat s)) s.cmdP
        ((out ++ [x]) ++ unread s.cfg.cap (ringAt i.toNat t)) t.cmdP := by
  have hu := undisturbed_first hinv hs hc hn rfl (ins := .rbRdUntil i x) (decide_eq_true hi) hx
  rw [(readUntilStepByStep s i x 0 0#8 0#32 0#8 hi).1 hs] at hx
  cases hx
  have hstart := ReadUntilPhase.U2 (p := s.cfg) (i := i) (q := unread s.cfg.cap (ringAt i.toNat s)) (ws := s.cmdP)
    (acc := s.acc) (s := atStep (.rbRdUntil i x) .U2 0 0#8 0#32 0#8 { s with rspC := none })
    [] _ _ _ rfl (List.append_nil _).symm List.not_mem_nil (Fed.refl ..)
  cases run_undisturbed (fun _ _ => readUntilPhase_other hi) (fun _ _ _ => readUntilPhase_flight hi) hu hstart hrun with
  | U2 _ _ _ _ hbusy | U3 _ _ _ _ hbusy | U4 _ _ _ _ hbusy => cases ht.symm.trans hbusy
  | done out _ hrsp hacc hx hf => exact ⟨out, hacc, hx, hrsp, hf⟩

end Sys2Proof.Machine
end

section
/-! PROOFS. Whole ring commands refine a bounded queue (R138 to R141, R135). -/

namespace Sys2Proof.Machine

theorem runCommand_last {n : Nat} {ins : Instr} {s t : State} (h : exec ins s = .next t) (ht : t.seq = .idle) :
    runCommand (n + 1) ins s = some t := by
  simp only [runCommand, h, if_pos ht]

theorem runCommand_next {n : Nat} {ins : Instr} {s t : State} (h : exec ins s = .next t) (ht : t.seq ≠ .idle) :
    runCommand (n + 1) ins s = runCommand n ins t := by
  simp only [runCommand, h, if_neg ht]

/-! ### One ring command -/

/-- The whole command `op` on instance `i` from `s` ends in `t` as the queue says, and leaves the other instances. -/
structure OpDone (i : Byte) (op : RingOp) (s t : State) : Prop where
  run : runCommand 4 (op.ins i) s = some t
  answer : answered (op.ins i) t = some ⟨.ok, (queueStep s.cfg.cap (unread s.cfg.cap (ringAt i.toNat s)) op).2⟩
  queue : unread s.cfg.cap (ringAt i.toNat t) = (queueStep s.cfg.cap (unread s.cfg.cap (ringAt i.toNat s)) op).1
  seq : t.seq = .idle
  others : ∀ j, j ≠ i.toNat → ringAt j t = ringAt j s
  inv : Inv t
  cfg : t.cfg = s.cfg

/-- A response between commands. -/
theorem inv_respondC {u : State} (h : Inv u) (hq : Quiet u.pwr u.clk) (w : Word) : Inv (respondC .ok w u) :=
  { h with seq := hq }

theorem inv_setRing {s : State} (h : Inv s) {i : Nat} {r : Ring} (hr : ringsOk (setRing i r s) = true) :
    Inv (setRing i r s) :=
  { h with rings := hr }

section
variable {s : State} {i : Byte} (hinv : Inv s) (hs : s.seq = .idle) (hi : i.toNat < s.cfg.nRb)
include hinv hs hi

theorem opDone_insert (b : Byte) :
    OpDone i (.insert b) s (respondP .ok 0#32 (insertByte i.toNat b s)) := by
  have hq := hinv.quiet hs
  have hx := exec_rbInsert ((intCtx_eq_true_iff _).mpr ⟨hq.gie, hq.pstate⟩) hi b
  have hu := insertByte_unwritten i.toNat b s
  have hseq : (insertByte i.toNat b s).seq = .idle := by rw [insertByte_eq]; exact hs
  exact {
    run := runCommand_last hx hseq
    answer := rfl
    queue := unread_insertByte hinv.rings hi b
    seq := hseq
    others := fun j hj => ringAt_insertByte_other (ring_exists hinv.rings hi) hj b
    inv := { inv_insertByte hinv hi b with }
    cfg := congrArg Unwritten.cfg hu }

theorem opDone_init :
    OpDone i .init s (respondC .ok 0#32 (setRing i.toNat { ringAt i.toNat s with head := 0, tail := 0 } s)) where
  run := runCommand_last (initEmptiesTheRing s i hi hs) rfl
  answer := rfl
  queue := by
    obtain ⟨⟨hcap, -⟩, -, -⟩ := hinv.cfg
    have hpos : 0 < s.cfg.cap := Nat.lt_of_lt_of_le Nat.two_pos hcap
    have he := ringAt_setRing_same i.toNat { ringAt i.toNat s with head := 0, tail := 0 } s (ring_exists hinv.rings hi)
    show unread s.cfg.cap (ringAt i.toNat (setRing i.toNat _ s)) = []
    rw [he]
    exact (unread_eq_nil_iff hpos hpos).mpr rfl
  seq := rfl
  others j hj := ringAt_setRing_other _ _ _ s hj
  inv := inv_respondC (inv_setRing hinv (ringsOk_emptied hinv.cfg hinv.rings hi)) (hinv.quiet hs) _
  cfg := rfl

/-- `RB_AVAIL`: A1, A2. -/
theorem opDone_avail :
    OpDone i .avail s
      (respondC .ok (BitVec.ofNat 32 (availCount s.cfg.cap (ringAt i.toNat s).head (ringAt i.toNat s).tail)) s) where
  run := by
    obtain ⟨ha1, -⟩ := availStepByStep s i 0 0#8 0#32 0#8 hi
    obtain ⟨-, ha2⟩ := availStepByStep { s with rspC := none } i (ringAt i.toNat s).head 0#8 0#32 0#8 hi
    exact (runCommand_next (ha1 hs) nofun).trans (runCommand_last ha2 rfl)
  answer := by rw [queueStep, unread_length]; rfl
  queue := rfl
  seq := rfl
  others _ _ := rfl
  inv := inv_respondC hinv (hinv.quiet hs) _
  cfg := rfl

/-- `RB_PEEK` and `RB_READ` of an empty ring answer the sentinel. -/
theorem opDone_empty {op : RingOp} (hop : op = .peek ∨ op = .read) (he : unread s.cfg.cap (ringAt i.toNat s) = []) :
    OpDone i op s (respondC .ok emptySentinel s) := by
  obtain ⟨hh, ht, -⟩ := ring_cursors hinv.rings hi
  have hht : (ringAt i.toNat s).head = (ringAt i.toNat s).tail := (unread_eq_nil_iff hh ht).mp he
  have hinv' := inv_respondC hinv (hinv.quiet hs) emptySentinel
  obtain rfl | rfl := hop
  · obtain ⟨h1, -⟩ := peekStepByStep s i 0 0#8 0#32 0#8 hi
    obtain ⟨-, h2, -⟩ := peekStepByStep { s with rspC := none } i (ringAt i.toNat s).head 0#8 0#32 0#8 hi
    exact {
      run := (runCommand_next (h1 hs) nofun).trans (runCommand_last (h2 hht) rfl)
      answer := by rw [he]; rfl
      queue := rfl, seq := rfl, others := fun _ _ => rfl, inv := hinv', cfg := rfl }
  · obtain ⟨h1, -⟩ := readStepByStep s i 0 0#8 0#32 0#8 hi
    obtain ⟨-, h2, -⟩ := readStepByStep { s with rspC := none } i (ringAt i.toNat s).head 0#8 0#32 0#8 hi
    exact {
      run := (runCommand_next (h1 hs) nofun).trans (runCommand_last (h2 hht) rfl)
      answer := by rw [he]; rfl
      queue := by rw [he]; exact he
      seq := rfl, others := fun _ _ => rfl, inv := hinv', cfg := rfl }

/-- `RB_PEEK`: P1 to P3. -/
theorem opDone_peek (hne : unread s.cfg.cap (ringAt i.toNat s) ≠ []) :
    OpDone i .peek s (respondC .ok ((oldestByte i.toNat s).setWidth 32) s) := by
  have hcons := unread_of_fed hinv.rings hi rfl hne
  obtain ⟨hh, ht, -⟩ := ring_cursors hinv.rings hi
  have hht : (ringAt i.toNat s).head ≠ (ringAt i.toNat s).tail := fun h => hne ((unread_eq_nil_iff hh ht).mpr h)
  obtain ⟨h1, -⟩ := peekStepByStep s i 0 0#8 0#32 0#8 hi
  obtain ⟨-, -, h2, h3⟩ := peekStepByStep { s with rspC := none } i (ringAt i.toNat s).head 0#8 0#32 0#8 hi
  exact {
    run := (runCommand_next (h1 hs) nofun).trans ((runCommand_next (h2 hht) nofun).trans (runCommand_last h3 rfl))
    answer := by rw [hcons]; rfl
    queue := rfl, seq := rfl, others := fun _ _ => rfl
    inv := inv_respondC hinv (hinv.quiet hs) _, cfg := rfl }

/-- `RB_READ`: D1 to D4. -/
theorem opDone_read (hne : unread s.cfg.cap (ringAt i.toNat s) ≠ []) :
    OpDone i .read s (respondC .ok ((oldestByte i.toNat s).setWidth 32) (dropOldest i.toNat s)) := by
  have hcons := unread_of_fed hinv.rings hi rfl hne
  obtain ⟨hh, ht, -⟩ := ring_cursors hinv.rings hi
  have hht : (ringAt i.toNat s).head ≠ (ringAt i.toNat s).tail := fun h => hne ((unread_eq_nil_iff hh ht).mpr h)
  obtain ⟨h1, -⟩ := readStepByStep s i 0 0#8 0#32 0#8 hi
  obtain ⟨-, -, h2, h3, -⟩ := readStepByStep { s with rspC := none } i (ringAt i.toNat s).head 0#8 0#32 0#8 hi
  obtain ⟨-, -, -, -, h4⟩ := readStepByStep { s with rspC := none } i (ringAt i.toNat s).head (oldestByte i.toNat s)
    0#32 0#8 hi
  exact {
    run := (runCommand_next (h1 hs) nofun).trans ((runCommand_next (h2 hht) nofun).trans
      ((runCommand_next h3 nofun).trans (runCommand_last h4 rfl)))
    answer := by rw [hcons]; rfl
    queue := by rw [hcons]; rfl
    seq := rfl
    others := fun j hj => ringAt_dropOldest_other hj
    inv := inv_respondC (inv_setRing hinv (ringsOk_dropOldest hinv.cfg hinv.rings hi)) (hinv.quiet hs) _
    cfg := rfl }

/-- Every ring command completes as the queue says. -/
theorem opDone (op : RingOp) : ∃ t, OpDone i op s t := by
  cases op with
  | insert b => exact ⟨_, opDone_insert hinv hs hi b⟩
  | init => exact ⟨_, opDone_init hinv hs hi⟩
  | avail => exact ⟨_, opDone_avail hinv hs hi⟩
  | peek =>
    by_cases he : unread s.cfg.cap (ringAt i.toNat s) = []
    · exact ⟨_, opDone_empty hinv hs hi (.inl rfl) he⟩
    · exact ⟨_, opDone_peek hinv hs hi he⟩
  | read =>
    by_cases he : unread s.cfg.cap (ringAt i.toNat s) = []
    · exact ⟨_, opDone_empty hinv hs hi (.inr rfl) he⟩
    · exact ⟨_, opDone_read hinv hs hi he⟩

end

/-- The first part of O22: every list of ring commands. -/
theorem ringRun_refines {i : Byte} (ops : List RingOp) {s : State} (hinv : Inv s) (hs : s.seq = .idle)
    (hi : i.toNat < s.cfg.nRb) :
    ∃ t, ringRun i ops s = some (t, (queueRun s.cfg.cap (unread s.cfg.cap (ringAt i.toNat s)) ops).2) ∧
      unread s.cfg.cap (ringAt i.toNat t) = (queueRun s.cfg.cap (unread s.cfg.cap (ringAt i.toNat s)) ops).1 ∧
      t.seq = .idle ∧ ∀ j, j ≠ i.toNat → ringAt j t = ringAt j s := by
  induction ops generalizing s with
  | nil => exact ⟨s, rfl, rfl, hs, fun _ _ => rfl⟩
  | cons op ops ih =>
    obtain ⟨t, ht⟩ := opDone hinv hs hi op
    obtain ⟨u, hrun, hq, hidle, hothers⟩ := ih ht.inv ht.seq (ht.cfg.symm ▸ hi)
    rw [ht.cfg, ht.queue] at hrun hq
    refine ⟨u, ?_, hq, hidle, fun j hj => (hothers j hj).trans (ht.others j hj)⟩
    simp only [ringRun, ht.run, ht.answer, hrun, queueRun]

/-! ### A whole `RB_RDUNTIL` -/

/-- U2 and U3 take the oldest unread byte. -/
theorem rbRdUntil_takes {i x b : Byte} {rest : List Byte} {s : State} (hr : ringsOk s = true) (hi : i.toNat < s.cfg.nRb)
    (hu : unread s.cfg.cap (ringAt i.toNat s) = b :: rest) (k h : Nat) (v : Byte) (n : Word) (c : ClkId) :
    unread s.cfg.cap (ringAt i.toNat (dropOldest i.toNat s)) = rest ∧
      runCommand (k + 2) (.rbRdUntil i x) (atStep (.rbRdUntil i x) .U2 h v n c s) =
        runCommand k (.rbRdUntil i x) (atStep (.rbRdUntil i x) .U4 h b n c (dropOldest i.toNat s)) := by
  obtain ⟨hh, ht, -⟩ := ring_cursors hr hi
  have hne : unread s.cfg.cap (ringAt i.toNat s) ≠ [] := by rw [hu]; exact List.cons_ne_nil _ _
  have hht : (ringAt i.toNat s).head ≠ (ringAt i.toNat s).tail := fun he => hne ((unread_eq_nil_iff hh ht).mpr he)
  obtain ⟨rfl, hrest⟩ := List.cons.inj ((unread_of_fed hr hi rfl hne).symm.trans hu)
  obtain ⟨-, -, h2, h3, -⟩ := readUntilStepByStep s i x h v n c hi
  exact ⟨hrest, (runCommand_next (h2 hht) nofun).trans (runCommand_next h3 nofun)⟩

/-- `RB_RDUNTIL` from U2 with the terminator among the unread bytes: three steps a byte. -/
theorem runCommand_rbRdUntil {i x : Byte} {h : Nat} {c : ClkId} (pre : List Byte) {post : List Byte} {n : Nat} {v : Byte}
    {s : State} (hc : s.cfg.Legal) (hr : ringsOk s = true) (hi : i.toNat < s.cfg.nRb)
    (hu : unread s.cfg.cap (ringAt i.toNat s) = pre ++ x :: post) (hx : x ∉ pre) :
    ∃ t, runCommand (3 * (pre.length + 1)) (.rbRdUntil i x) (atStep (.rbRdUntil i x) .U2 h v (BitVec.ofNat 32 n) c s) =
        some t ∧
      t.acc = s.acc ++ pre.map (fun b => (i, b)) ∧ t.rspC = some ⟨.ok, BitVec.ofNat 32 (n + pre.length)⟩ ∧
      unread s.cfg.cap (ringAt i.toNat t) = post ∧ t.seq = .idle ∧ ∀ j, j ≠ i.toNat → ringAt j t = ringAt j s := by
  induction pre generalizing n v s with
  | nil =>
    obtain ⟨hpost, hrun⟩ := rbRdUntil_takes (x := x) hr hi hu 1 h v (BitVec.ofNat 32 n) c
    obtain ⟨-, -, -, -, hend, -⟩ := readUntilStepByStep (dropOldest i.toNat s) i x h x (BitVec.ofNat 32 n) c hi
    exact ⟨_, hrun.trans (runCommand_last (hend rfl) rfl), (List.append_nil _).symm, rfl, hpost, rfl,
      fun j hj => ringAt_dropOldest_other hj⟩
  | cons b pre ih =>
    rw [List.mem_cons, not_or] at hx
    obtain ⟨hbx, hx⟩ := hx
    obtain ⟨hrest, hrun⟩ := rbRdUntil_takes (x := x) hr hi hu (3 * (pre.length + 1) + 1) h v (BitVec.ofNat 32 n) c
    obtain ⟨-, -, -, -, -, hgo⟩ := readUntilStepByStep (dropOldest i.toNat s) i x h b (BitVec.ofNat 32 n) c hi
    obtain ⟨t, htrun, hacc, hrsp, hpost, hidle, hothers⟩ :=
      ih (n := n + 1) (v := b) (s := emit i b (dropOldest i.toNat s)) hc (ringsOk_dropOldest hc hr hi) hi hrest hx
    refine ⟨t, ?_, ?_, ?_, hpost, hidle, fun j hj => (hothers j hj).trans (ringAt_dropOldest_other hj)⟩
    · refine hrun.trans ((runCommand_next (hgo fun he => hbx he.symm) nofun).trans ?_)
      rw [BitVec.ofNat_add] at htrun
      exact htrun
    · rw [hacc, List.map_cons, List.append_cons]; rfl
    · rw [hrsp, List.length_cons, Nat.add_right_comm, Nat.add_assoc]

/-- Settles O22: one operation at a time; a whole `RB_RDUNTIL` byte by byte; under interleaving by what other agents do to
a ring. -/
theorem ringRefinesTheBoundedQueue : Obligations.RingRefinesTheBoundedQueue := by
  refine ⟨fun s i ops hinv hs hi => ringRun_refines ops hinv hs hi, fun s i x pre post hinv hs hi hu hx => ?whole,
    fun s s₁ t i x k hinv hs hc _ hn hi hx hrun ht => ?interleaved⟩
  case whole =>
    obtain ⟨h1, -⟩ := readUntilStepByStep s i x 0 0#8 0#32 0#8 hi
    obtain ⟨t, hrun, hacc, hrsp, hrest⟩ := runCommand_rbRdUntil (s := { s with rspC := none }) (n := 0) (h := 0) (v := 0#8)
      (c := 0#8) pre hinv.cfg hinv.rings hi hu hx
    rw [Nat.zero_add] at hrsp
    exact ⟨t, (runCommand_next (h1 hs) nofun).trans hrun, hacc, hrsp, hrest⟩
  case interleaved =>
    obtain ⟨out, hacc, hno, hrsp, served, more, hq, hrest⟩ := readUntil_interleaved hinv hs hc hn hi hx hrun ht
    rw [← List.append_cons] at hq
    exact ⟨out, served, more, hacc, hno, hrsp, hq, hrest⟩

end Sys2Proof.Machine
end

section
/-! PROOFS. Runs of a power command under any schedule without PowerOnReset: standby and an unarmed wait never respond
(R170, R180), and a command that wakes leaves the clock configuration it found (R179). -/

namespace Sys2Proof.Machine

/-! ### Where a power command goes -/

/-- A command of the power controller. -/
def isPower (ins : Instr) : Bool := wakes ins || isStandby ins

theorem not_isPower_of_observes {ins : Instr} (ho : observes ins = true) : isPower ins = false := by
  cases ins <;> cases ho <;> rfl

theorem observes_isPower {ins : Instr} (ho : observes ins = true) (hi : isPower ins = true) {P : Prop} : P :=
  absurd ((not_isPower_of_observes ho).symm.trans hi) Bool.false_ne_true

theorem isPower_of_wakes {ins : Instr} (hw : wakes ins = true) : isPower ins = true := by
  rw [isPower, hw, Bool.true_or]

theorem isPower_of_standby {ins : Instr} (hi : isStandby ins = true) : isPower ins = true := by
  rw [isPower, hi, Bool.or_true]

theorem not_wakes_of_standby {ins : Instr} (hi : isStandby ins = true) : wakes ins = false := by
  cases ins <;> cases hi <;> rfl

theorem wakes_standby {ins : Instr} (hw : wakes ins = true) (hi : isStandby ins = true) {P : Prop} : P :=
  absurd ((not_wakes_of_standby hi).symm.trans hw) Bool.false_ne_true

theorem wakes_of_timed {ins : Instr} {x : Bool × Bool × TimeUnit × Word} (ht : timedOf ins = some x) :
    wakes ins = true :=
  wakes_iff.mpr (.inr (Option.isSome_iff_exists.mpr ⟨x, ht⟩))

/-- A power command goes on without a response, until W7, or W6 of `PM_STOP_IRQ`, answers. -/
theorem FlightStep.power {s t : State} {f : Flight} (hst : FlightStep s f t) (hs : s.seq = .busy f)
    (hi : isPower f.ins = true) :
    ((∃ f', t.seq = .busy f' ∧ f'.ins = f.ins) ∧ t.rspC = s.rspC) ∨
      (f.step = .W7 ∧ ∃ lp deep u d, timedOf f.ins = some (lp, deep, u, d) ∧
        t = respondC .ok 0#32 { s with rtc := armRtc u 0#32 s.rtc }) ∨
      (f.ins = .pmStopIrq ∧ f.step = .W6 ∧ t = respondC .ok 0#32 { s with pwr := { s.pwr with tickie := true } }) := by
  cases hst with
  | held => exact .inl ⟨⟨f, hs, rfl⟩, rfl⟩
  | looks _ _ ho => exact observes_isPower ho hi
  | answers _ _ ho => exact observes_isPower ho hi
  | D4 | Z1 | I1 | S1 | T1 | H1 | K6 => cases hi
  | W7 ht => exact .inr (.inl ⟨rfl, _, _, _, _, ht, rfl⟩)
  | W6irq => exact .inr (.inr ⟨rfl, rfl, rfl⟩)
  | _ => exact .inl ⟨⟨_, rfl, rfl⟩, rfl⟩

/-- A standby command goes on without a response: it never answers. -/
theorem FlightStep.standby {s t : State} {f : Flight} (hst : FlightStep s f t) (hs : s.seq = .busy f)
    (hi : isStandby f.ins = true) :
    (∃ f', t.seq = .busy f' ∧ f'.ins = f.ins) ∧ t.rspC = s.rspC := by
  obtain h | ⟨-, lp, deep, u, d, ht, -⟩ | ⟨h, -⟩ := hst.power hs (isPower_of_standby hi)
  · exact h
  · exact wakes_standby (wakes_of_timed ht) hi
  · rw [h] at hi; cases hi

/-- Settles O49: the command stays in flight with no response. -/
theorem standbyNeverResponds : Obligations.StandbyNeverResponds := by
  intro ins s s₁ t k hi hinv hs _ hw hn hx hrun
  rw [exec_accept (standby_port hi) hs hw] at hx
  have hfirst := flightStep_of_accepted (standby_port hi) hx
  have hstay := hfirst.standby rfl hi
  have hinv₁ := hfirst.inv rfl (inv_accepted hinv hs (standby_port hi) hw)
  refine (run_keeps (P := fun s => Inv s ∧ noReset s.sched = true ∧ (∃ f, s.seq = .busy f ∧ f.ins = ins) ∧ s.rspC = none)
    ?_ k s₁ t ⟨hinv₁, hfirst.sched_eq.symm ▸ hn, hstay⟩ hrun).2.2
  rintro s t ⟨hinv, hn, ⟨f, hs, rfl⟩, hrsp⟩ hstep
  have hinv' := everyStepKeepsTheInvariant s t hinv hstep
  obtain ⟨hnp, hns⟩ := nextMove_of_noReset hn
  cases stepKind_of_step hstep with
  | powerOnReset hm => exact absurd hm hnp
  | standbyExit hm => exact absurd hm hns
  | accepts _ _ _ hidle => cases hs.symm.trans hidle
  | other hb =>
    obtain ⟨-, hr⟩ := hb.portC (.inr (by rw [hs]; exact nofun))
    exact ⟨hinv', hb.noReset hn, ⟨f, hb.seq.trans hs, rfl⟩, hr.trans hrsp⟩
  | flight f' _ hs' ht =>
    cases hs.symm.trans hs'
    have hf := hinv.inFlight hs
    have hst : FlightStep (dropMove s) f t := flightStep_of_exec hs hf.port ht
    obtain ⟨hbusy, hr⟩ := hst.standby hs hi
    exact ⟨hinv', hst.sched_eq.symm ▸ (bystander_dropMove s).noReset hn, hbusy, hr.trans hrsp⟩

/-! ### Schedules without PowerOnReset -/

theorem noPowerOn_of_sched {s t : State} (h : t.sched = s.sched ∨ t.sched = s.sched.tail)
    (hs : noPowerOn s.sched = true) : noPowerOn t.sched = true := by
  obtain he | he := h <;> rw [he]
  · exact hs
  · exact List.all_eq_true.mpr fun m hm => List.all_eq_true.mp hs m (List.mem_of_mem_tail hm)

theorem nextMove_of_noPowerOn {s : State} (h : noPowerOn s.sched = true) : nextMove s ≠ .powerOnReset :=
  fun hm => absurd (List.all_eq_true.mp h _ (nextMove_mem hm (by decide))) (by decide)

/-- A command that wakes never stands in `StandbyWait`. -/
theorem pstateAt_of_wakes {ins : Instr} {st : StepName} (hw : wakes ins = true) (hstep : hasStep ins st = true) :
    pstateAt ins st ≠ .standbyWait := by
  cases st with
  | E12 => obtain he | he := pstateAt_E12 ins <;> rw [he] <;> decide
  | B8 => exact wakes_standby hw hstep
  | _ => exact nofun

/-- While a command that wakes is in flight, StandbyExitReset is not enabled. -/
theorem no_standbyExit {s : State} (hinv : Inv s) {f : Flight} (hs : s.seq = .busy f) (hw : wakes f.ins = true) :
    standbyExitEnabled s ≠ true := by
  intro he
  obtain ⟨hp, -⟩ := Bool.and_eq_true_iff.mp he
  have hf := hinv.inFlight hs
  exact pstateAt_of_wakes hw hf.step (hf.pstate.symm.trans (of_decide_eq_true hp))

/-! ### Duration 0 -/

/-- The entry list of a timed command, up to its wait. -/
def entryStep : StepName → Bool
  | .E1 | .E2 | .E3 | .E4 | .E5 | .E6 | .E7 | .E8 | .E9 | .E10 _ | .E11 | .E12 => true
  | _ => false

/-- Neither comparator is enabled, and none is pending. -/
def rtcQuiet (r : Rtc) : Prop := r.alrEn = false ∧ r.wutEn = false ∧ rtcIrq r = false

theorem rtcQuiet_rtcTick {r : Rtc} (h : rtcQuiet r) : rtcQuiet (rtcTick r) := by
  obtain ⟨ha, hw, hi⟩ := h
  refine ⟨(rtcTick_alrEn r).trans ha, (rtcTick_wutEn r).trans hw, ?_⟩
  simpa only [rtcIrq, rtcTick_alrF, rtcTick_wutF, rtcTick_alrIe, rtcTick_wutIe, ha, hw, Bool.false_and, Bool.or_false]
    using hi

/-- `Arm(u, 0)` leaves a quiet RTC quiet. -/
theorem rtcQuiet_disarm {r : Rtc} (h : rtcQuiet r) (u : TimeUnit) : rtcQuiet (armRtc u 0#32 r) := by
  obtain ⟨ha, hw, hi⟩ := h
  obtain ⟨h1, h2⟩ := Bool.or_eq_false_iff.mp hi
  cases u with
  | seconds => exact ⟨rfl, hw, Bool.or_eq_false_iff.mpr ⟨rfl, h2⟩⟩
  | milliseconds => exact ⟨ha, rfl, Bool.or_eq_false_iff.mpr ⟨h1, rfl⟩⟩

theorem timedWake_of_rtcQuiet {s : State} (h : rtcQuiet s.rtc) (hc : s.cfg.timedWaitExtWake = false) :
    timedWake s = false := by
  simp [timedWake, h.2.2, hc]

/-- A timed command with duration 0 stays on its entry list while nothing wakes it. -/
theorem FlightStep.entry {s t : State} {f : Flight} (hst : FlightStep s f t) (hs : s.seq = .busy f)
    {lp deep : Bool} {u : TimeUnit} (ht : timedOf f.ins = some (lp, deep, u, 0#32)) (he : entryStep f.step = true)
    (hq : rtcQuiet s.rtc) (hwake : timedWake s = false) :
    (∃ f', t.seq = .busy f' ∧ f'.ins = f.ins ∧ entryStep f'.step = true) ∧ rtcQuiet t.rtc ∧ t.rspC = s.rspC := by
  have hpow : isPower f.ins = true := isPower_of_wakes (wakes_of_timed ht)
  cases hst with
  | held => exact ⟨⟨f, hs, rfl, he⟩, hq, rfl⟩
  | looks _ _ ho => exact observes_isPower ho hpow
  | answers _ _ ho => exact observes_isPower ho hpow
  | E4 ht' =>
    cases ht.symm.trans ht'
    exact ⟨⟨_, rfl, rfl, rfl⟩, rtcQuiet_disarm hq u, rfl⟩
  | @E6 ins lp' _ _ _ ht' =>
    cases lp' <;> exact ⟨⟨_, rfl, rfl, rfl⟩, hq, rfl⟩
  | E12 _ _ _ _ _ hw => exact absurd (hwake.symm.trans hw) Bool.false_ne_true
  | E1 | E2 | E3 | E5 | E7 | E8 | E9 | E10k1 | E10k2 | E10k3 | E10k4 | E11 => exact ⟨⟨_, rfl, rfl, rfl⟩, hq, rfl⟩
  | _ => cases he

/-- Settles O48: the command stays on its entry list, and the RTC stays quiet. -/
theorem durationZeroNeverWakes : Obligations.DurationZeroNeverWakes := by
  intro ins s s₁ t lp deep u k ht hinv hs _ ha hwt hi hext hn hx hrun
  have hsome : (timedOf ins).isSome = true := Option.isSome_iff_exists.mpr ⟨_, ht⟩
  have hp := timed_port hsome
  have hw := timed_wellFormed hsome s.cfg
  rw [exec_accept hp hs hw] at hx
  have hfirst := flightStep_of_accepted hp hx
  have hinv₁ := hfirst.inv rfl (inv_accepted hinv hs hp hw)
  have hstart := hfirst.entry rfl ht (show entryStep (firstStep ins) = true by rw [timed_firstStep hsome]; rfl)
    ⟨ha, hwt, hi⟩ (timedWake_of_rtcQuiet ⟨ha, hwt, hi⟩ hext)
  have hkeep := run_keeps (P := fun s => Inv s ∧ noPowerOn s.sched = true ∧ s.cfg.timedWaitExtWake = false ∧
      (∃ f, s.seq = .busy f ∧ f.ins = ins ∧ entryStep f.step = true) ∧ rtcQuiet s.rtc ∧ s.rspC = none)
    ?_ k s₁ t ⟨hinv₁, hfirst.sched_eq.symm ▸ hn, hfirst.cfg_eq.symm ▸ hext, hstart⟩ hrun
  · obtain ⟨-, -, -, ⟨f, hbusy, -⟩, -, hrsp⟩ := hkeep
    exact ⟨by rw [hbusy]; exact nofun, hrsp⟩
  rintro s t ⟨hinv, hn, hext, ⟨f, hs, rfl, he⟩, hq, hrsp⟩ hstep
  have hinv' := everyStepKeepsTheInvariant s t hinv hstep
  cases stepKind_of_step hstep with
  | powerOnReset hm => exact absurd hm (nextMove_of_noPowerOn hn)
  | standbyExit _ he => exact absurd he (no_standbyExit hinv hs (wakes_iff.mpr (.inr hsome)))
  | accepts _ _ _ hidle => cases hs.symm.trans hidle
  | other hb =>
    obtain ⟨-, hr⟩ := hb.portC (.inr (by rw [hs]; exact nofun))
    refine ⟨hinv', noPowerOn_of_sched hb.sched hn, hb.cfg.symm ▸ hext, ⟨f, hb.seq.trans hs, rfl, he⟩, ?_, hr.trans hrsp⟩
    obtain hrtc | hrtc := hb.rtc <;> rw [hrtc]
    · exact hq
    · exact rtcQuiet_rtcTick hq
  | flight f' _ hs' ht' =>
    cases hs.symm.trans hs'
    have hst : FlightStep (dropMove s) f t := flightStep_of_exec hs hp ht'
    obtain ⟨hbusy, hq', hr⟩ := hst.entry hs ht he hq (timedWake_of_rtcQuiet (s := dropMove s) hq hext)
    exact ⟨hinv', noPowerOn_of_sched (.inr hst.sched_eq) hn, hst.cfg_eq.symm ▸ hext, hbusy, hq', hr.trans hrsp⟩

/-! ### The clock round trip -/

/-- The comparator that a timed command arms is off. -/
def comparatorOff (ins : Instr) (r : Rtc) : Prop :=
  match timedOf ins with
  | some (_, _, .seconds, _) => alarmOff r
  | some (_, _, .milliseconds, _) => timerOff r
  | none => True

theorem comparatorOff_rtcTick {ins : Instr} {r : Rtc} (h : comparatorOff ins r) : comparatorOff ins (rtcTick r) := by
  unfold comparatorOff at h ⊢
  split at h
  · exact alarmOff_rtcTick h
  · exact timerOff_rtcTick h
  · trivial

theorem comparatorOff_disarm {ins : Instr} {lp deep : Bool} {u : TimeUnit} {d : Word}
    (ht : timedOf ins = some (lp, deep, u, d)) (r : Rtc) : comparatorOff ins (armRtc u 0#32 r) := by
  rw [comparatorOff, ht]
  cases u <;> exact ⟨rfl, rfl, rfl⟩

/-- A command that wakes, begun with the clock configuration `c`: in flight, or answered with the configuration restored. -/
inductive RoundTrip (ins : Instr) (c : ClkId) (s : State) : Prop
  | running (f : Flight) (hs : s.seq = .busy f) (hi : f.ins = ins) (hc : s.clk.current = c)
      (htick : f.step = .W7 → s.pwr.tickie = true)
  | done (hs : s.seq = .idle) (hc : s.clk.current = c) (ha : s.clk.active = c) (hcfg : s.clk.tickCfg = c)
      (htick : s.pwr.tickie = true) (hrsp : s.rspC = some ⟨.ok, 0#32⟩) (hoff : comparatorOff ins s.rtc)

/-- Only W6 leads to W7, and it sets `TICKIE`. -/
theorem FlightStep.tickie_at_W7 {s t : State} {f f' : Flight} (hst : FlightStep s f t) (hs : s.seq = .busy f)
    (hw : wakes f.ins = true) (ht : t.seq = .busy f') (h : f.step = .W7 → s.pwr.tickie = true) :
    f'.step = .W7 → t.pwr.tickie = true := by
  intro h7
  cases hst with
  | held => cases hs.symm.trans ht; exact h h7
  | looks _ _ ho => exact observes_isPower ho (isPower_of_wakes hw)
  | W6 => rfl
  | @E6 ins lp => cases lp <;> cases ht <;> cases h7
  | B3 hi => exact wakes_standby hw hi
  | _ => cases ht <;> cases h7

theorem FlightStep.roundTrip {s t : State} {f : Flight} {c : ClkId} (hst : FlightStep s f t) (hinv : Inv s)
    (hs : s.seq = .busy f) (hw : wakes f.ins = true) (hc : s.clk.current = c)
    (htick : f.step = .W7 → s.pwr.tickie = true) : RoundTrip f.ins c t := by
  have hf := hinv.inFlight hs
  have hcur : t.clk.current = c := by
    by_contra hne
    obtain ⟨x, hins, -⟩ := hst.current_changes hf (hc ▸ hne)
    rw [hins] at hw
    cases hw
  obtain ⟨⟨f', ht, hins⟩, -⟩ | ⟨h7, lp, deep, u, d, ht, rfl⟩ | ⟨hins, h6, rfl⟩ := hst.power hs (isPower_of_wakes hw)
  · exact .running f' ht hins hcur (hst.tickie_at_W7 hs hw ht htick)
  · obtain ⟨-, ha, hcfg⟩ := (replayOk_done (.inr (.inr h7))).mp hf.replay
    exact .done rfl hcur (ha.trans hc) (hcfg.trans hc) (htick h7) rfl (comparatorOff_disarm ht s.rtc)
  · obtain ⟨-, ha, hcfg⟩ := (replayOk_done (.inr (.inl h6))).mp hf.replay
    exact .done rfl hcur (ha.trans hc) (hcfg.trans hc) rfl rfl (by rw [comparatorOff, hins]; trivial)

theorem RoundTrip.other {ins : Instr} {c : ClkId} {s t : State} (h : RoundTrip ins c s) (hc : s.cmdC = [])
    (hb : Bystander s t) : RoundTrip ins c t := by
  cases h with
  | running f hs hi hcur htick =>
    exact .running f (hb.seq.trans hs) hi (hb.current_eq.trans hcur) (fun h7 => hb.tickie.trans (htick h7))
  | done hs hcur ha hcfg htick hrsp hoff =>
    obtain ⟨-, hr⟩ := hb.portC (.inl hc)
    obtain ⟨ha', hcfg'⟩ : t.clk.active = s.clk.active ∧ t.clk.tickCfg = s.clk.tickCfg := by
      obtain he | he := hb.clk <;> rw [he] <;> exact ⟨rfl, rfl⟩
    refine .done (hb.seq.trans hs) (hb.current_eq.trans hcur) (ha'.trans ha) (hcfg'.trans hcfg) (hb.tickie.trans htick)
      (hr.trans hrsp) ?_
    obtain he | he := hb.rtc <;> rw [he]
    · exact hoff
    · exact comparatorOff_rtcTick hoff

/-- A command that wakes is never where StandbyExitReset is enabled, in flight or after it. -/
theorem RoundTrip.no_standbyExit {ins : Instr} {c : ClkId} {s : State} (h : RoundTrip ins c s) (hinv : Inv s)
    (hw : wakes ins = true) : standbyExitEnabled s ≠ true := by
  cases h with
  | running f hs hi => exact Machine.no_standbyExit hinv hs (hi ▸ hw)
  | done hs =>
    intro he
    obtain ⟨hp, -⟩ := Bool.and_eq_true_iff.mp he
    cases (hinv.quiet hs).pstate.symm.trans (of_decide_eq_true hp)

theorem port_of_wakes {ins : Instr} (hw : wakes ins = true) : ins.port = .C := by
  obtain rfl | ht := wakes_iff.mp hw
  · rfl
  · exact timed_port ht

theorem wellFormed_of_wakes {ins : Instr} (hw : wakes ins = true) (p : Params) : ins.wellFormed p = true := by
  obtain rfl | ht := wakes_iff.mp hw
  · rfl
  · exact timed_wellFormed ht p

theorem firstStep_ne_W7 (ins : Instr) : firstStep ins ≠ .W7 := by
  intro h
  have hp := plain_firstStep ins
  rw [h] at hp
  cases hp

/-- What holds all along the run of a command that wakes. -/
structure OnRoundTrip (ins : Instr) (c : ClkId) (s : State) : Prop where
  inv : Inv s
  sched : noPowerOn s.sched = true
  cmdC : s.cmdC = []
  phase : RoundTrip ins c s

theorem onRoundTrip_step {ins : Instr} {c : ClkId} (hw : wakes ins = true) {s t : State} (h : OnRoundTrip ins c s)
    (hstep : step s = .next t) : OnRoundTrip ins c t := by
  obtain ⟨hinv, hn, hc, hphase⟩ := h
  have hinv' := everyStepKeepsTheInvariant s t hinv hstep
  cases stepKind_of_step hstep with
  | powerOnReset hm => exact absurd hm (nextMove_of_noPowerOn hn)
  | standbyExit _ he => exact absurd he (hphase.no_standbyExit hinv hw)
  | accepts _ _ _ _ hword => cases hc.symm.trans hword
  | other hb => exact ⟨hinv', noPowerOn_of_sched hb.sched hn, (hb.portC (.inl hc)).1.trans hc, hphase.other hc hb⟩
  | flight f _ hbusy ht =>
    have hst : FlightStep (dropMove s) f t := flightStep_of_exec hbusy (hinv.inFlight hbusy).port ht
    refine ⟨hinv', noPowerOn_of_sched (.inr hst.sched_eq) hn, hst.cmdC_eq.trans hc, ?_⟩
    cases hphase with
    | done hs => cases hbusy.symm.trans hs
    | running f' hs hi hcur htick =>
      cases hbusy.symm.trans hs
      subst hi
      exact hst.roundTrip (inv_dropMove hinv) hbusy hw hcur htick

/-- Settles O45: the round trip holds along the run; at the end the invariant gives the rest. -/
theorem clockRoundTrip : Obligations.ClockRoundTrip := by
  intro ins s s₁ t k hw hinv hs _ _ hn hc hx hrun hidle
  have hp := port_of_wakes hw
  have hwf := wellFormed_of_wakes hw s.cfg
  rw [exec_accept hp hs hwf] at hx
  have hacc := inv_accepted hinv hs hp hwf
  have hfirst := flightStep_of_accepted hp hx
  have hstart : OnRoundTrip ins s.clk.current s₁ :=
    ⟨hfirst.inv rfl hacc, hfirst.sched_eq.symm ▸ hn, hfirst.cmdC_eq.trans hc,
      hfirst.roundTrip hacc rfl hw rfl fun h => absurd h (firstStep_ne_W7 ins)⟩
  obtain ⟨hinv', -, -, hend⟩ := run_keeps (fun _ _ => onRoundTrip_step hw) k s₁ t hstart hrun
  have hq := hinv'.quiet hidle
  cases hend with
  | running f hbusy => cases hidle.symm.trans hbusy
  | done _ hcur ha hcfg htick hrsp hoff =>
    refine ⟨?_, hq.gie, htick, hq.pstate, hq.lpreg, hq.reglpf, hrsp, fun lp deep d ht => ?_, fun lp deep d ht => ?_⟩
    · calc t.clk = ⟨t.clk.active, t.clk.current, t.clk.tickCfg, t.clk.wait⟩ := rfl
        _ = _ := by rw [ha, hcur, hcfg, hq.wait]
    · rw [comparatorOff, ht] at hoff; exact hoff
    · rw [comparatorOff, ht] at hoff; exact hoff

end Sys2Proof.Machine
end

section
/-! PROOFS. Runs under a given schedule: a command carried from its acceptance to its answer. -/

namespace Sys2Proof.Machine

/-! ### One step of a run -/

theorem run_step {k : Nat} {s t : State} (h : step s = .next t) : run (k + 1) s = run k t := by
  simp only [run, h]

theorem run_zero (s : State) : run 0 s = .next s := rfl

theorem nextMove_of_sched {s : State} {m : Move} {ms : List Move} (h : s.sched = m :: ms) : nextMove s = m := by
  rw [nextMove, h, List.headD_cons]

theorem dropMove_of_sched {s : State} {m : Move} {ms : List Move} (h : s.sched = m :: ms) :
    dropMove s = { s with sched := ms } := by
  rw [dropMove, h, List.tail_cons]

/-- An event moves. -/
theorem run_event {k : Nat} (m : Move) {s t : State} {ms : List Move} (hf : s.faulted = none) (hm : s.sched = m :: ms)
    (hx : agentTurn m { s with sched := ms } = .next t) : run (k + 1) s = run k t := by
  refine run_step ?_
  rw [step_of_move hf (nextMove_of_sched hm), dropMove_of_sched hm, hx, recordFault]

/-- Port C moves, with the command in flight at its step `st`. -/
theorem run_portC {k : Nat} {ins : Instr} {st : StepName} {h : Nat} {v : Byte} {n : Word} {c : ClkId} {s t : State}
    {ms : List Move} (hf : s.faulted = none) (hm : s.sched = .portC :: ms)
    (hx : exec ins (atStep ins st h v n c { s with sched := ms }) = .next t) :
    run (k + 1) (atStep ins st h v n c s) = run k t :=
  run_event (s := atStep ins st h v n c s) .portC hf hm hx

/-- Port C, idle, accepts the command whose word is presented. -/
theorem run_accept {k : Nat} {ins : Instr} {s t : State} {ms : List Move} {ws : List Cmd} (hf : s.faulted = none)
    (hs : s.seq = .idle) (hp : ins.port = .C) (hc : s.cmdC = encode ins :: ws) (hm : s.sched = .portC :: ms)
    (hx : exec ins { s with cmdC := ws, sched := ms } = .next t) : run (k + 1) s = run k t := by
  refine run_step ?_
  rw [step_of_wordC hf (nextMove_of_sched hm) hs hc, acceptC_ok (decodeOfEncodeIsTheCommand ins) hp,
    dropMove_of_sched hm, hx, recordFault]

/-- EV_CLKRDY with a "ready" awaited by the command in flight. -/
theorem run_clkRdy {k : Nat} {ins : Instr} {st : StepName} {h : Nat} {v : Byte} {n : Word} {c : ClkId} {s : State}
    {ms : List Move} (hf : s.faulted = none) (hm : s.sched = .evClkRdy :: ms) (hw : s.clk.wait ≠ .none) :
    run (k + 1) (atStep ins st h v n c s) =
      run k (atStep ins st h v n c { s with sched := ms, clk := { s.clk with wait := .none } }) :=
  run_event .evClkRdy hf hm
    (congrArg Host.Outcome.next (evClkRdy_of_wait_ne_none (s := atStep ins st h v n c { s with sched := ms }) hw))

/-! ### `CLK_SELECT` -/

section
variable {x : Byte} {h : Nat} {v : Byte} {n : Word} {c : ClkId} {s : State}

theorem exec_K2 (hw : s.clk.wait = .none) :
    exec (.clkSelect x) (atStep (.clkSelect x) (.K .k2) h v n c s) =
      .next (atStep (.clkSelect x) (.K .k3) h v n x { s with clk := { s.clk with wait := .src } }) := by
  simp only [exec, execClkSelect, onPortC_atStep, clockStep, clockHold_passes hw]; rfl

theorem exec_K3 (hw : s.clk.wait = .none) :
    exec (.clkSelect x) (atStep (.clkSelect x) (.K .k3) h v n c s) =
      .next (atStep (.clkSelect x) (.K .k4) h v n x { s with clk := { s.clk with wait := .sw } }) := by
  simp only [exec, execClkSelect, onPortC_atStep, clockStep, clockHold_passes hw]; rfl

theorem exec_K4 (hw : s.clk.wait = .none) :
    exec (.clkSelect x) (atStep (.clkSelect x) (.K .k4) h v n c s) =
      .next (atStep (.clkSelect x) (.K .k5) h v n x { s with clk := { s.clk with active := x } }) := by
  simp only [exec, execClkSelect, onPortC_atStep, clockStep, clockHold_passes hw]; rfl

theorem exec_K5 :
    exec (.clkSelect x) (atStep (.clkSelect x) (.K .k5) h v n c s) =
      .next (atStep (.clkSelect x) (.K .k6) h v n x
        { s with clk := { s.clk with tickCfg := x }, pwr := { s.pwr with tickie := true } }) := by
  simp only [exec, execClkSelect, onPortC_atStep, clockStep]; rfl

theorem exec_K6 :
    exec (.clkSelect x) (atStep (.clkSelect x) (.K .k6) h v n c s) =
      .next { s with clk := { s.clk with current := x }, seq := .idle, rspC := some ⟨.ok, 0#32⟩ } := by
  simp only [exec, execClkSelect, onPortC_atStep, clockStep]; rfl

end

/-- Settles O35: each hold of `CLK_SELECT` passes with its EV_CLKRDY. -/
theorem clockSelectCompletes : Obligations.ClockSelectCompletes := by
  intro s x hp hx hs hf
  let u : State := { s with
    cmdC := [], sched := [.evClkRdy, .portC, .evClkRdy, .portC, .evClkRdy, .portC, .portC, .portC] }
  obtain ⟨hk1, -⟩ := clockSelectStepByStep u x 0 0#8 0#32 0#8 hp hx
  refine Eq.trans (run_accept (ins := .clkSelect x) hf hs rfl rfl rfl (hk1 hs)) ?_
  refine Eq.trans (run_clkRdy hf rfl nofun) ?_
  refine Eq.trans (run_portC hf rfl (exec_K2 rfl)) ?_
  refine Eq.trans (run_clkRdy hf rfl nofun) ?_
  refine Eq.trans (run_portC hf rfl (exec_K3 rfl)) ?_
  refine Eq.trans (run_clkRdy hf rfl nofun) ?_
  refine Eq.trans (run_portC hf rfl (exec_K4 rfl)) ?_
  refine Eq.trans (run_portC hf rfl exec_K5) ?_
  refine Eq.trans (run_portC hf rfl exec_K6) ?_
  dsimp only [run]
  rw [← hs]

/-! ### The Wake list -/

/-- W2 with the regulator in main mode. -/
theorem exec_W2 {ins : Instr} (hw : wakes ins = true) (s : State) (h : Nat) (v : Byte) (n : Word) (c : ClkId)
    (hr : s.pwr.reglpf = false) : exec ins (atStep ins .W2 h v n c s) = .next (atStep ins .W3 h v n c s) := by
  obtain ⟨-, h2, -⟩ := wakeListStepByStep ins s h v n c hw
  rw [h2, hr]
  rfl

/-- The Wake list from W2 to W6, its regulator hold passed and each clock hold passing with its EV_CLKRDY. -/
def wakeMoves : List Move :=
  [.portC, .portC, .portC, .evClkRdy, .portC, .evClkRdy, .portC, .evClkRdy, .portC, .portC, .portC, .portC]

theorem run_wakeList {ins : Instr} (hw : wakes ins = true) {s : State} {h : Nat} {v : Byte} {n : Word} {c : ClkId}
    {k : Nat} {ms : List Move} (hf : s.faulted = none) (hr : s.pwr.reglpf = false) (hc : s.clk.current ≠ clkNone)
    (hm : s.sched = wakeMoves ++ ms) :
    run (k + 12) (atStep ins .W2 h v n c s) =
      run k (atStep ins .W6 h v n s.clk.current { s with
        sched := ms
        clk := ⟨s.clk.current, s.clk.current, s.clk.current, .none⟩
        pwr := { s.pwr with tickie := true, gie := true, extpend := false } }) := by
  have hlist := fun s h v n c => wakeListStepByStep ins s h v n c hw
  simp only [forall_and] at hlist
  obtain ⟨-, -, w3, w4k1, -, ⟨w4k2, w4k3, w4k4⟩, w4k5, w4k6, w5, -⟩ := hlist
  refine Eq.trans (run_portC hf hm (exec_W2 hw _ _ _ _ _ hr)) ?_
  refine Eq.trans (run_portC hf rfl (w3 ..)) ?_
  refine Eq.trans (run_portC hf rfl (w4k1 _ _ _ _ _ hc)) ?_
  refine Eq.trans (run_clkRdy hf rfl nofun) ?_
  refine Eq.trans (run_portC hf rfl (w4k2 _ _ _ _ _ rfl)) ?_
  refine Eq.trans (run_clkRdy hf rfl nofun) ?_
  refine Eq.trans (run_portC hf rfl (w4k3 _ _ _ _ _ rfl)) ?_
  refine Eq.trans (run_clkRdy hf rfl nofun) ?_
  refine Eq.trans (run_portC hf rfl (w4k4 _ _ _ _ _ rfl)) ?_
  refine Eq.trans (run_portC hf rfl (w4k5 ..)) ?_
  refine Eq.trans (run_portC hf rfl (w4k6 ..)) ?_
  refine Eq.trans (run_portC hf rfl (w5 ..)) ?_
  rfl

/-! ### `PM_STOP_IRQ` -/

/-- EV_EXTIRQ while no handler can run: it stays pending. -/
theorem run_extIrq {k : Nat} {ins : Instr} {st : StepName} {h : Nat} {v : Byte} {n : Word} {c : ClkId} {s : State}
    {ms : List Move} (hf : s.faulted = none) (hm : s.sched = .evExtIrq :: ms) (hi : intCtx s.pwr = false) :
    run (k + 1) (atStep ins st h v n c s) =
      run k (atStep ins st h v n c { s with sched := ms, pwr := { s.pwr with extpend := true } }) :=
  run_event .evExtIrq hf hm (congrArg Host.Outcome.next (if_neg (ne_true_of_eq_false hi)))

/-- Q6 with the interrupt pending. -/
theorem exec_Q6 (s : State) (h : Nat) (v : Byte) (n : Word) (c : ClkId) (he : s.pwr.extpend = true) :
    exec .pmStopIrq (atStep .pmStopIrq .Q6 h v n c s) =
      .next (atStep .pmStopIrq .W1 h v n c { s with pwr := { s.pwr with pstate := .active } }) := by
  obtain ⟨-, -, -, -, -, h6⟩ := stopUntilInterruptStepByStep s h v n c
  rw [h6, if_pos he]

/-- W6 of `PM_STOP_IRQ` answers. -/
theorem exec_W6_irq (s : State) (h : Nat) (v : Byte) (n : Word) (c : ClkId) :
    exec .pmStopIrq (atStep .pmStopIrq .W6 h v n c s) =
      .next { s with pwr := { s.pwr with tickie := true }, seq := .idle, rspC := some ⟨.ok, 0#32⟩ } := by
  obtain ⟨-, -, -, -, -, -, -, -, -, h6, -⟩ := wakeListStepByStep .pmStopIrq s h v n c rfl
  exact h6 rfl

/-- Settles O47: Q1 to Q5, the interrupt, Q6, and the Wake list. -/
theorem stopUntilInterruptCompletes : Obligations.StopUntilInterruptCompletes := by
  intro s hinv hs hf hc
  have hq := hinv.quiet hs
  have hlist := stopUntilInterruptStepByStep
  simp only [Obligations.StopUntilInterruptStepByStep, forall_and] at hlist
  obtain ⟨q1, q2, q3, q4, q5, -⟩ := hlist
  obtain ⟨w1, -⟩ := forall_and.mp fun s => wakeListStepByStep .pmStopIrq s 0 0#8 0#32 0#8 rfl
  refine Eq.trans (run_accept (ins := .pmStopIrq) hf hs rfl rfl rfl (q1 _ 0 0#8 0#32 0#8 hs)) ?_
  refine Eq.trans (run_portC hf rfl (q2 ..)) ?_
  refine Eq.trans (run_portC hf rfl (q3 ..)) ?_
  refine Eq.trans (run_portC hf rfl (q4 ..)) ?_
  refine Eq.trans (run_portC hf rfl (q5 ..)) ?_
  refine Eq.trans (run_extIrq hf rfl rfl) ?_
  refine Eq.trans (run_portC hf rfl (exec_Q6 _ _ _ _ _ rfl)) ?_
  refine Eq.trans (run_portC hf rfl (w1 _)) ?_
  refine Eq.trans (run_wakeList (ins := .pmStopIrq) rfl hf hq.reglpf hc rfl) ?_
  refine Eq.trans (run_portC hf rfl (exec_W6_irq ..)) ?_
  dsimp only [run]
  simp only [hs, hq.pstate, hq.gie, hq.lpreg, hq.reglpf, hq.extpend, Bool.or_self]

/-! ### Standby and its exit -/

/-- EV_WKUP of an enabled pin. -/
theorem run_wkup {k : Nat} {p : Fin 3} {ins : Instr} {st : StepName} {h : Nat} {v : Byte} {n : Word} {c : ClkId}
    {s : State} {ms : List Move} (hf : s.faulted = none) (hm : s.sched = .evWkup p :: ms)
    (hp : s.pwr.wupen.getLsbD p.val = true) :
    run (k + 1) (atStep ins st h v n c s) =
      run k (atStep ins st h v n c { s with sched := ms, pwr := { s.pwr with wuf := true } }) :=
  run_event (.evWkup p) hf hm (congrArg Host.Outcome.next (if_pos hp))

theorem run_standbyExit {k : Nat} {s : State} {ms : List Move} (he : standbyExitEnabled s = true)
    (hf : s.faulted = none) (hm : s.sched = .standbyExitReset :: ms) :
    run (k + 1) s = run k (standbyExit { s with sched := ms }) :=
  run_event .standbyExitReset hf hm (congrArg Host.Outcome.next (if_pos he))

theorem enabledPin (p : Fin 3) : (0#3 ||| 1#3 <<< (BitVec.ofNat 8 p.val).toNat).getLsbD p.val = true := by
  revert p; decide

/-- The power fields in the standby wait of `PM_STANDBY_PIN p` (R170, R173). -/
def inStandby (p : Byte) (q : Pwr) : Pwr :=
  { q with
    tickie := false, wuf := false, vrefen := false, tsen := false, pvden := false, pdds := true, deep := true
    wupen := q.wupen ||| 1#3 <<< p.toNat, pstate := .standbyWait, reglpf := q.lpreg || q.reglpf }

/-- The standby entry list of `PM_STANDBY_PIN`, from its acceptance to the wait. -/
theorem run_standbyPin {k : Nat} {p : Byte} {s : State} {ms : List Move} {ws : List Cmd} (hf : s.faulted = none)
    (hs : s.seq = .idle) (hp : p.toNat < 3) (hc : s.cmdC = encode (.pmStandbyPin p) :: ws)
    (hm : s.sched = [.portC, .portC, .portC, .portC, .portC, .portC, .portC] ++ ms) :
    run (k + 7) s =
      run k (atStep (.pmStandbyPin p) .B8 0 0#8 0#32 0#8 { s with
        cmdC := ws, sched := ms, rspC := none
        pwr := inStandby p s.pwr }) := by
  have hlist := fun s h v n c => standbyEntryStepByStep (.pmStandbyPin p) s h v n c rfl
  simp only [forall_and] at hlist
  obtain ⟨b1, b2, b3, -, b4, b5, b6, b7, -⟩ := hlist
  refine Eq.trans (run_accept (ins := .pmStandbyPin p) hf hs rfl hc hm (b1 _ 0 0#8 0#32 0#8 hs (decide_eq_true hp))) ?_
  refine Eq.trans (run_portC hf rfl (b2 ..)) ?_
  refine Eq.trans (run_portC hf rfl (b3 ..)) ?_
  refine Eq.trans (run_portC hf rfl (b4 _ _ _ _ _ _ rfl)) ?_
  refine Eq.trans (run_portC hf rfl (b5 ..)) ?_
  refine Eq.trans (run_portC hf rfl (b6 ..)) ?_
  refine Eq.trans (run_portC hf rfl (b7 ..)) ?_
  rfl

/-- The pin and the exit, from the wait. -/
theorem run_wakePin {p : Fin 3} {ins : Instr} {st : StepName} {h : Nat} {v : Byte} {n : Word} {c : ClkId} {s : State}
    (hf : s.faulted = none) (hm : s.sched = [.evWkup p, .standbyExitReset]) (hp : s.pwr.wupen.getLsbD p.val = true)
    (hw : s.pwr.pstate = .standbyWait) :
    run 2 (atStep ins st h v n c s) =
      .next (standbyExit (atStep ins st h v n c { s with sched := [], pwr := { s.pwr with wuf := true } })) := by
  refine Eq.trans (run_wkup hf hm hp) ?_
  have he : standbyExitEnabled (atStep ins st h v n c
      { s with sched := [.standbyExitReset], pwr := { s.pwr with wuf := true } }) = true := by
    simp [standbyExitEnabled, hw]
  exact (run_standbyExit (k := 0) he hf rfl).trans (run_zero _)

/-- Settles O50: the entry list, the pin, and the exit. -/
theorem wakePinLeavesStandbyByReset : Obligations.WakePinLeavesStandbyByReset := by
  intro s p hinv hs hf
  have hq := hinv.quiet hs
  have hpin : (BitVec.ofNat 8 p.val).toNat < 3 := by
    rw [BitVec.toNat_ofNat]; exact Nat.lt_of_le_of_lt (Nat.mod_le _ _) p.isLt
  have hwup : (s.pwr.wupen ||| 1#3 <<< (BitVec.ofNat 8 p.val).toNat).getLsbD p.val = true := by
    rw [hq.wupen]; exact enabledPin p
  let u : State := { s with
    cmdC := [encode (.pmStandbyPin (BitVec.ofNat 8 p.val))]
    sched := [.portC, .portC, .portC, .portC, .portC, .portC, .portC, .evWkup p, .standbyExitReset] }
  have hentry := run_standbyPin (k := 2) (s := u) (ms := [.evWkup p, .standbyExitReset]) hf hs hpin rfl rfl
  have hexit := hentry.trans (run_wakePin (s := { u with
    cmdC := [], sched := [.evWkup p, .standbyExitReset], rspC := none
    pwr := inStandby (BitVec.ofNat 8 p.val) s.pwr }) hf rfl hwup rfl)
  exact ⟨_, hexit, rfl, rfl, rfl, rfl, rfl, rfl, rfl, rfl, rfl, rfl, rfl⟩

end Sys2Proof.Machine
end

section
/-! PROOFS. A timed command with a nonzero duration can complete (R161 to R168, R330): the schedule that carries it to its
answer, segment by segment. -/

namespace Sys2Proof.Machine

/-- The schedule `ms` carries `s` to `t`, whatever is scheduled next. -/
def Leads (ms : List Move) (s t : State) : Prop :=
  ∀ rest k, run (k + ms.length) { s with sched := ms ++ rest } = run k { t with sched := rest }

theorem Leads.trans {ms ns : List Move} {s t u : State} (h : Leads ms s t) (h' : Leads ns t u) : Leads (ms ++ ns) s u := by
  intro rest k
  rw [List.length_append, Nat.add_comm ms.length, ← Nat.add_assoc, List.append_assoc]
  exact (h _ _).trans (h' _ _)

theorem Leads.refl (s : State) : Leads [] s s := fun _ _ => rfl

/-- What a schedule leads to is what its run answers. -/
theorem Leads.run {ms : List Move} {s t : State} (h : Leads ms s t) :
    run ms.length { s with sched := ms } = .next { t with sched := [] } := by
  have h0 := h [] 0
  rwa [List.append_nil, Nat.zero_add] at h0

/-- A segment that begins with the command in flight at its step `st`. -/
theorem leads_of_run {ins : Instr} {st : StepName} {h : Nat} {v : Byte} {n : Word} {c : ClkId} {ms : List Move}
    {s t : State}
    (hrun : ∀ rest k, run (k + ms.length) (atStep ins st h v n c { s with sched := ms ++ rest }) =
      run k { t with sched := rest }) : Leads ms (atStep ins st h v n c s) t := hrun

section
variable {ins : Instr} {lp deep : Bool} {u : TimeUnit} {d : Word} (ht : timedOf ins = some (lp, deep, u, d))
  {h : Nat} {v : Byte} {n : Word} {c : ClkId} {s : State} (hf : s.faulted = none)
include ht hf

/-- E1 to E6. -/
theorem leads_entry (hs : s.seq = .idle) (hr : s.rtc.src ≠ .none) {ws : List Cmd} (hc : s.cmdC = encode ins :: ws) :
    Leads [.portC, .portC, .portC, .portC, .portC, .portC] s
      (atStep ins (if lp = true then .E7 else .E11) 0 0#8 0#32 0#8 { s with
        cmdC := ws, rspC := none, rtc := armRtc u d s.rtc
        pwr := { s.pwr with gie := false, tickie := false, rtcie := true, lpreg := lp, deep := deep } }) := by
  intro rest k
  have hlist := timedEntryStepByStep ins lp deep u d ht
  simp only [forall_and] at hlist
  obtain ⟨e1, e2, e3, e4, e5, e6, -⟩ := hlist
  refine Eq.trans (run_accept (ins := ins) hf hs (timed_port (Option.isSome_iff_exists.mpr ⟨_, ht⟩)) hc rfl
    (e1 _ 0 0#8 0#32 0#8 hs)) ?_
  refine Eq.trans (run_portC hf rfl (e2 ..)) ?_
  refine Eq.trans (run_portC hf rfl (e3 ..)) ?_
  refine Eq.trans (run_portC hf rfl (e4 _ _ _ _ _ hr)) ?_
  refine Eq.trans (run_portC hf rfl (e5 ..)) ?_
  refine Eq.trans (run_portC hf rfl (e6 ..)) ?_
  rfl

/-- E7 to E10, of the low-power variants. -/
theorem leads_downclock :
    Leads [.portC, .portC, .portC, .portC, .evClkRdy, .portC, .evClkRdy, .portC, .evClkRdy, .portC]
      (atStep ins .E7 h v n c s)
      (atStep ins .E11 h v n clkLp { s with
        pwr := { s.pwr with prefetch := false, flashpd := true }, clk := { s.clk with active := clkLp, wait := .none } }) := by
  refine leads_of_run fun rest k => ?_
  have hlist := timedEntryStepByStep ins lp deep u d ht
  simp only [forall_and] at hlist
  obtain ⟨-, -, -, -, -, -, e7, e8, e9, e10k1, -, ⟨e10k2, e10k3, e10k4⟩, -⟩ := hlist
  refine Eq.trans (run_portC hf rfl (e7 ..)) ?_
  refine Eq.trans (run_portC hf rfl (e8 ..)) ?_
  refine Eq.trans (run_portC hf rfl (e9 ..)) ?_
  refine Eq.trans (run_portC hf rfl (e10k1 ..)) ?_
  refine Eq.trans (run_clkRdy hf rfl nofun) ?_
  refine Eq.trans (run_portC hf rfl (e10k2 _ _ _ _ _ rfl)) ?_
  refine Eq.trans (run_clkRdy hf rfl nofun) ?_
  refine Eq.trans (run_portC hf rfl (e10k3 _ _ _ _ _ rfl)) ?_
  refine Eq.trans (run_clkRdy hf rfl nofun) ?_
  refine Eq.trans (run_portC hf rfl (e10k4 _ _ _ _ _ rfl)) ?_
  rfl

/-- E11. -/
theorem leads_wait : Leads [.portC] (atStep ins .E11 h v n c s) (atStep ins .E12 h v n c (enterWait s)) := by
  refine leads_of_run fun rest k => ?_
  obtain ⟨-, -, -, -, -, -, -, -, -, -, -, -, e11, -⟩ :=
    timedEntryStepByStep ins lp deep u d ht { s with sched := rest } h v n c
  exact run_portC (s := { s with sched := [.portC] ++ rest }) hf rfl e11

/-- E12 when the wake condition holds. -/
theorem leads_wake (hw : timedWake s = true) :
    Leads [.portC] (atStep ins .E12 h v n c s) (atStep ins .W1 h v n c { s with pwr := { s.pwr with pstate := .active } }) := by
  refine leads_of_run fun rest k => ?_
  obtain ⟨-, -, -, -, -, -, -, -, -, -, -, -, -, e12⟩ :=
    timedEntryStepByStep ins lp deep u d ht { s with sched := rest } h v n c
  rw [if_pos ((timedWake_iff s).mp hw)] at e12
  exact run_portC (s := { s with sched := [.portC] ++ rest }) hf rfl e12

/-- W6 and W7. -/
theorem leads_answer (hr : s.rtc.src ≠ .none) :
    Leads [.portC, .portC] (atStep ins .W6 h v n c s) { s with
      pwr := { s.pwr with tickie := true }, rtc := armRtc u 0#32 s.rtc, seq := .idle, rspC := some ⟨.ok, 0#32⟩ } := by
  refine leads_of_run fun rest k => ?_
  have hlist := fun s h v n c => wakeListStepByStep ins s h v n c (wakes_of_timed ht)
  simp only [forall_and] at hlist
  obtain ⟨-, -, -, -, -, -, -, -, -, -, w6, w7⟩ := hlist
  refine Eq.trans (run_portC hf rfl (w6 _ _ _ _ _ lp deep u d ht)) ?_
  refine Eq.trans (run_portC hf rfl (w7 _ _ _ _ _ lp deep u d ht hr)) ?_
  rfl

end

/-! ### Segments of the wait and the Wake list -/

/-- Milliseconds of a source that oscillates. -/
theorem leads_millis (N : Nat) {s : State} (hf : s.faulted = none) (hr : rtcRunning s = true) :
    Leads (List.replicate N .evRtcMs) s { s with rtc := rtcTick^[N] s.rtc } := by
  induction N generalizing s with
  | zero => exact Leads.refl s
  | succ N ih =>
    have hrun : rtcRunning { s with rtc := rtcTick s.rtc } = true := by
      simpa only [rtcRunning, rtcTick_src] using hr
    have hfirst : Leads [.evRtcMs] s { s with rtc := rtcTick s.rtc } := fun rest k =>
      run_event (s := { s with sched := [.evRtcMs] ++ rest }) .evRtcMs hf rfl
        (congrArg Host.Outcome.next (evRtcMs_of_running (s := { s with sched := rest }) hr))
    exact hfirst.trans (ih hf hrun)

section
variable {ins : Instr} {st : StepName} {h : Nat} {v : Byte} {n : Word} {c : ClkId} {s : State} (hf : s.faulted = none)
include hf

/-- EV_REGRDY once main mode is requested: the regulator is in main mode after it, whether it was enabled or not. -/
theorem leads_regRdy (hl : s.pwr.lpreg = false) :
    Leads [.evRegRdy] (atStep ins st h v n c s) (atStep ins st h v n c { s with pwr := { s.pwr with reglpf := false } }) := by
  refine leads_of_run fun rest k => ?_
  refine run_event .evRegRdy hf rfl (congrArg Host.Outcome.next ?_)
  rw [evRegRdy_eq]
  split
  case isTrue => rfl
  case isFalse hn =>
    have hr : s.pwr.reglpf = false := Bool.eq_false_iff.mpr fun hr => hn ⟨hl, hr⟩
    have hp : { s.pwr with reglpf := false } = s.pwr := by rw [← hr]
    rw [hp]
    rfl

theorem leads_W1 (hw : wakes ins = true) :
    Leads [.portC] (atStep ins .W1 h v n c s) (atStep ins .W2 h v n c { s with pwr := { s.pwr with lpreg := false } }) := by
  refine leads_of_run fun rest k => ?_
  obtain ⟨w1, -⟩ := wakeListStepByStep ins { s with sched := rest } h v n c hw
  exact run_portC (s := { s with sched := [.portC] ++ rest }) hf rfl w1

theorem leads_wakeList (hw : wakes ins = true) (hr : s.pwr.reglpf = false) (hc : s.clk.current ≠ clkNone) :
    Leads wakeMoves (atStep ins .W2 h v n c s)
      (atStep ins .W6 h v n s.clk.current { s with
        clk := ⟨s.clk.current, s.clk.current, s.clk.current, .none⟩
        pwr := { s.pwr with tickie := true, gie := true, extpend := false } }) :=
  leads_of_run fun rest _ => run_wakeList (s := { s with sched := wakeMoves ++ rest }) hw hf hr hc rfl

end

/-! ### The comparator fires -/

/-- The milliseconds after which the comparator armed for `d` in the unit `u` matches. -/
def armedMillis (u : TimeUnit) (d : Word) : Nat :=
  match u with
  | .seconds => 1000 * d.toNat
  | .milliseconds => d.toNat

theorem rtcTick_iterate_src (r : Rtc) (N : Nat) : (rtcTick^[N] r).src = r.src := by
  induction N with
  | zero => rfl
  | succ N ih => rw [Function.iterate_succ_apply', rtcTick_src, ih]

theorem rtcTick_iterate_ie (r : Rtc) (N : Nat) :
    (rtcTick^[N] r).alrIe = r.alrIe ∧ (rtcTick^[N] r).wutIe = r.wutIe := by
  induction N with
  | zero => exact ⟨rfl, rfl⟩
  | succ N ih => rw [Function.iterate_succ_apply', rtcTick_alrIe, rtcTick_wutIe]; exact ih

theorem rtcIrq_after_armed {d : Word} (hd : d ≠ 0#32) (u : TimeUnit) (r : Rtc) :
    rtcIrq (rtcTick^[armedMillis u d] (armRtc u d r)) = true := by
  obtain ⟨ha, hw⟩ := rtcTick_iterate_ie (armRtc u d r) (armedMillis u d)
  rw [rtcIrq_eq_true_iff, ha, hw]
  cases u with
  | seconds => exact .inl ⟨(alarm_flag_after hd r _).trans (decide_eq_true (Nat.le_refl _)), by
      rw [armRtc_seconds_of_ne_zero hd]; rfl⟩
  | milliseconds => exact .inr ⟨(timer_flag_after hd r _).trans (decide_eq_true (Nat.le_refl _)), by
      rw [armRtc_milliseconds_of_ne_zero hd]; rfl⟩

/-! ### The whole command -/

/-- Some schedule without resets carries `s` to an answer (OK, 0) with the script `ws` left on port C. -/
def Completes (ws : List Cmd) (s : State) : Prop :=
  ∃ ms t, noReset ms = true ∧ Leads ms s t ∧ t.seq = .idle ∧ t.rspC = some ⟨.ok, 0#32⟩ ∧ t.cmdC = ws ∧ t.faulted = none

theorem Completes.after {ws : List Cmd} {ms : List Move} {s u : State} (hn : noReset ms = true) (h : Leads ms s u)
    (hu : Completes ws u) : Completes ws s := by
  obtain ⟨ns, t, hn', h', ht⟩ := hu
  exact ⟨ms ++ ns, t, by rw [noReset, List.all_append]; exact Bool.and_eq_true_iff.mpr ⟨hn, hn'⟩, h.trans h', ht⟩

theorem noReset_millis (N : Nat) : noReset (List.replicate N .evRtcMs) = true :=
  List.all_eq_true.mpr fun m hm => by rw [List.eq_of_mem_replicate hm]; rfl

/-- From the wait step on: the armed milliseconds pass, and the Wake list runs. -/
theorem completes_from_E11 {ins : Instr} {lp deep : Bool} {u : TimeUnit} {d : Word}
    (ht : timedOf ins = some (lp, deep, u, d)) (hd : d ≠ 0#32) {h : Nat} {v : Byte} {n : Word} {c : ClkId} {s : State}
    {r : Rtc} (hf : s.faulted = none) (hrun : rtcRunning s = true) (harm : s.rtc = armRtc u d r)
    (hie : s.pwr.rtcie = true) (hc : s.clk.current ≠ clkNone) : Completes s.cmdC (atStep ins .E11 h v n c s) := by
  have hw := wakes_of_timed ht
  have hsrc : (rtcTick^[armedMillis u d] s.rtc).src ≠ .none := by
    rw [rtcTick_iterate_src]; exact src_of_rtcRunning hrun
  have hwake : timedWake { enterWait s with rtc := rtcTick^[armedMillis u d] s.rtc } = true :=
    (timedWake_iff _).mpr (.inl ⟨hie, by rw [harm]; exact rtcIrq_after_armed hd u r⟩)
  refine .after rfl (leads_wait ht hf) ?_
  refine .after (noReset_millis _) (leads_millis (armedMillis u d) hf hrun) ?_
  refine .after rfl (leads_wake (s := { enterWait s with rtc := rtcTick^[armedMillis u d] s.rtc }) ht hf hwake) ?_
  refine .after rfl (leads_W1 hf hw) ?_
  refine .after rfl (leads_regRdy hf rfl) ?_
  refine .after rfl (leads_wakeList hf hw rfl hc) ?_
  exact ⟨_, _, rfl, leads_answer ht hf hsrc, rfl, rfl, rfl, hf⟩

/-- Settles O46: the entry list, for a low-power variant the downclock, and the rest. -/
theorem timedCommandCanComplete : Obligations.TimedCommandCanComplete := by
  intro ins s lp deep u d ht hd _ hs hf hrun hc
  have hsrc := src_of_rtcRunning hrun
  have harmed : rtcRunning { s with rtc := armRtc u d s.rtc } = true := by
    simpa only [rtcRunning, armRtc_src] using hrun
  have hcomplete : Completes s.cmdC { s with cmdC := encode ins :: s.cmdC } := by
    refine .after rfl (leads_entry (s := { s with cmdC := encode ins :: s.cmdC }) ht hf hs hsrc rfl) ?_
    cases lp with
    | true =>
      refine .after rfl (leads_downclock ht hf) ?_
      exact completes_from_E11 ht hd hf harmed rfl rfl hc
    | false => exact completes_from_E11 ht hd hf harmed rfl rfl hc
  obtain ⟨ms, t, hn, hl, hidle, hrsp, hcmd, hfault⟩ := hcomplete
  exact ⟨ms, _, hl.run, hn, hidle, hrsp, hcmd, hfault⟩

end Sys2Proof.Machine
end
